-- ==== Sys2Proof/Word.lean ====
section
/-! DEFINITION. The word types of TRB (spec 00_scope.md R13, R14): u8, u16, u32, u64. -/

namespace Sys2Proof

/-- u8: a byte of `SRC` or `SNK`, a colour channel, an 8-bit header field. -/
abbrev Byte := BitVec 8

/-- u16: a header dimension or origin, a `LINE` coordinate. -/
abbrev Half := BitVec 16

/-- u32: a packed Color32, a command word. -/
abbrev Word := BitVec 32

/-- u64: an operand or result register, an f64 bit pattern. -/
abbrev Dword := BitVec 64

end Sys2Proof
end

