-- ==== Sys2Proof/Config.lean ====
section
/-! DEFINITION. What an implementation of TRB fixes (spec 00_scope.md R12) and the values the spec
leaves open. The open ones are opaque constants without a body: a claim holds whatever they are. -/

namespace Sys2Proof.Config

/-- IDESC_W: the image_descriptor byte that INEW and IENC write. OPEN (R12, D12, U6; log 6). -/
opaque idescW : Byte

/-- OUTLINE_COLOR: the colour of the outline of a degenerate triangle. OPEN (R12, D27, U7; log 7). -/
opaque outlineColor : Word

/-- Sign and fraction of a NaN that a float operation produces: unspecified (R137, U3; log 8).
Only bits 63 and 51..0 are used. -/
opaque nanBits : Dword

/-- `toint` of a value that is not finite: R138 defines it for finite values only (log 15). -/
opaque tointNonFinite : Half

/-- `round` of a value that is not finite: R138 defines it for finite values only (log 15). -/
opaque roundNonFinite : Int

/-- NEW_FILL: the pixel value of a newly created image, opaque black (R12, 43_codec.md R191, C4). -/
def newFill : Word := 0x000000FF#32

/-- Minus infinity as an f64 bit pattern, the depth of a new depth buffer
(40_numerics_geometry.md R136, 44_rasterizer.md R240). -/
def negInfBits : Dword := 0xFFF0000000000000#64

end Sys2Proof.Config
end

