-- ==== Sys2Proof/Machine/Float.lean ====
section
/-! DEFINITION. Floating point (40_numerics_geometry.md R136 to R140): IEEE 754 binary64, one rounding
per operation, to nearest with ties to even; conversions and ordered comparisons.

Every finite binary64 value is an integer multiple of 2^-1074, the smallest subnormal. A finite value
is held as its sign and that integer, its magnitude; exact results are computed on integers and
rounded once. -/

namespace Sys2Proof.Machine

/-- An f64 value (R136). `fin neg mag` is `mag * 2^-1074` with sign `neg`; zeros are signed. A NaN
carries nothing: its sign and payload are unspecified (R137) and no rule's outcome depends on them. -/
inductive F64 where
  | nan
  | inf (neg : Bool)
  | fin (neg : Bool) (mag : Nat)
  deriving DecidableEq, Repr

/-- The magnitude of 1.0. -/
def F64.unit : Nat := 2 ^ 1074

/-- The magnitude of 2^1024: the finite values are those below it. -/
def F64.limit : Nat := 2 ^ 2098

/-! ## Bit patterns (R136) -/

/-- The value of a bit pattern: bit 63 sign, bits 62:52 biased exponent, bits 51:0 fraction. -/
def F64.ofBits (b : Dword) : F64 :=
  let e := (b.extractLsb' 52 11).toNat
  let f := (b.extractLsb' 0 52).toNat
  if e = 2047 then (if f = 0 then .inf b.msb else .nan)
  else if e = 0 then .fin b.msb f
  else .fin b.msb ((2 ^ 52 + f) * 2 ^ (e - 1))

/-- A NaN pattern with the free sign and fraction (log 8); a zero fraction would be an infinity. -/
def F64.nanPattern : Dword :=
  let p := Config.nanBits ||| 0x7FF0000000000000#64
  if p.extractLsb' 0 52 = 0#52 then p ||| 1#64 else p

/-- Exponent and fraction bits of a magnitude: `k * 2^52 + mag / 2^k` for the binade `k`. -/
def F64.magBits (mag : Nat) : Nat :=
  let k := mag.log2 - 52
  k * 2 ^ 52 + mag / 2 ^ k

/-- Bits 62:0 of the pattern under the sign bit. -/
def F64.signed (neg : Bool) (bits : Nat) : Dword :=
  BitVec.ofBool neg ++ BitVec.ofNat 63 bits

/-- The bit pattern of a value. -/
def F64.toBits : F64 → Dword
  | .nan => F64.nanPattern
  | .inf neg => F64.signed neg (2047 * 2 ^ 52)
  | .fin neg mag => F64.signed neg (F64.magBits mag)

/-! ## Rounding (R137) -/

/-- The integer nearest `num / den`, ties to even (`den > 0`). -/
def roundDiv (num den : Nat) : Nat :=
  let q := num / den
  let r := num % den
  if 2 * r < den then q
  else if den < 2 * r then q + 1
  else q + q % 2

/-- The magnitude nearest `num / den` among those with at most 53 significant bits, ties to even. -/
def roundMag (num den : Nat) : Nat :=
  let k := (num / den).log2 - 52
  roundDiv num (den * 2 ^ k) * 2 ^ k

/-- The f64 nearest the real number of sign `neg` and magnitude `num / den`. -/
def F64.round (neg : Bool) (num den : Nat) : F64 :=
  let m := roundMag num den
  if m < F64.limit then .fin neg m else .inf neg

/-! ## Operations (R137) -/

/-- The magnitude with its sign. -/
def F64.signedMag (neg : Bool) (mag : Nat) : Int := if neg then -(mag : Int) else (mag : Int)

/-- `−a`. -/
def F64.neg : F64 → F64
  | .nan => .nan
  | .inf n => .inf (!n)
  | .fin n m => .fin (!n) m

/-- `fabs(a)`. -/
def F64.abs : F64 → F64
  | .nan => .nan
  | .inf _ => .inf false
  | .fin _ m => .fin false m

/-- `a + b`. An exact zero sum is +0 unless both operands are negative. -/
def F64.add : F64 → F64 → F64
  | .fin na ma, .fin nb mb =>
    let v := F64.signedMag na ma + F64.signedMag nb mb
    if v = 0 then .fin (na && nb) 0 else F64.round (v < 0) v.natAbs 1
  | .inf na, .inf nb => if na = nb then .inf na else .nan
  | .inf na, .fin _ _ => .inf na
  | .fin _ _, .inf nb => .inf nb
  | .nan, _ => .nan
  | _, .nan => .nan

/-- `a − b`. -/
def F64.sub (a b : F64) : F64 := a.add b.neg

/-- `a * b`. -/
def F64.mul : F64 → F64 → F64
  | .fin na ma, .fin nb mb => F64.round (na != nb) (ma * mb) F64.unit
  | .inf na, .inf nb => .inf (na != nb)
  | .inf na, .fin nb mb => if mb = 0 then .nan else .inf (na != nb)
  | .fin na ma, .inf nb => if ma = 0 then .nan else .inf (na != nb)
  | .nan, _ => .nan
  | _, .nan => .nan

/-- `a / b`. A non-zero by zero is an infinity; 0/0 and infinity/infinity are invalid. -/
def F64.div : F64 → F64 → F64
  | .fin na ma, .fin nb mb =>
    if mb = 0 then (if ma = 0 then .nan else .inf (na != nb))
    else F64.round (na != nb) (ma * F64.unit) mb
  | .inf _, .inf _ => .nan
  | .inf na, .fin nb _ => .inf (na != nb)
  | .fin na _, .inf nb => .fin (na != nb) 0
  | .nan, _ => .nan
  | _, .nan => .nan

/-- The integer square root of `n`, of at most `fuel` bits: two bits of `n` give one of the root. -/
def isqrtBits : Nat → Nat → Nat
  | 0, _ => 0
  | fuel + 1, n =>
    let r := 2 * isqrtBits fuel (n / 4)
    if (r + 1) * (r + 1) ≤ n then r + 1 else r

/-- The root of a finite magnitude, correctly rounded. The exact root is `sqrt(mag * 2^1074)` units;
its leading 56 bits `r`, with one sticky bit for what they leave off, decide the rounding. -/
def sqrtMag (mag : Nat) : Nat :=
  let n := mag * F64.unit
  let j := (n.log2 - 110) / 2
  let top := n / 4 ^ j
  let r := isqrtBits 56 top
  let sticky := if r * r * 4 ^ j = n then 0 else 1
  roundMag ((2 * r + sticky) * 2 ^ j) 2

/-- `sqrt(a)`; invalid for a negative non-zero operand; `sqrt(−0) = −0`. -/
def F64.sqrt : F64 → F64
  | .nan => .nan
  | .inf neg => if neg then .nan else .inf false
  | .fin neg mag => if mag = 0 then .fin neg 0 else if neg then .nan else .fin false (sqrtMag mag)

/-! ## Comparisons (R139): ordered, false on NaN -/

/-- `a < b`. -/
def F64.lt : F64 → F64 → Bool
  | .fin na ma, .fin nb mb => F64.signedMag na ma < F64.signedMag nb mb
  | .inf na, .inf nb => na && !nb
  | .inf na, .fin _ _ => na
  | .fin _ _, .inf nb => !nb
  | .nan, _ => false
  | _, .nan => false

/-- `a == b`: `+0 == −0`. -/
def F64.eq : F64 → F64 → Bool
  | .fin na ma, .fin nb mb => F64.signedMag na ma == F64.signedMag nb mb
  | .inf na, .inf nb => na == nb
  | .inf _, .fin _ _ => false
  | .fin _ _, .inf _ => false
  | .nan, _ => false
  | _, .nan => false

/-- `a <= b`. -/
def F64.le (a b : F64) : Bool := a.lt b || a.eq b

/-- `a > b`. -/
def F64.gt (a b : F64) : Bool := b.lt a

/-- `a >= b`. -/
def F64.ge (a b : F64) : Bool := b.le a

/-- `a != b` is `not (a == b)`. -/
def F64.ne (a b : F64) : Bool := !a.eq b

/-! ## Conversions (R138) -/

/-- `f(i)`: exact for the integers it is used on. -/
def F64.ofInt (i : Int) : F64 :=
  if i = 0 then .fin false 0 else F64.round (i < 0) (i.natAbs * F64.unit) 1

/-- `isfinite(a)`: neither NaN nor an infinity. -/
def F64.isFinite : F64 → Bool
  | .nan => false
  | .inf _ => false
  | .fin _ _ => true

/-- `toint(a) = clamp(floor(a), 0, 65535)` for finite `a`: below zero the floor clamps to 0, from zero
on it is the integer part. For other values R138 gives nothing and none reaches it (log 15). -/
def F64.toint : F64 → Nat
  | .nan => Config.tointNonFinite.toNat
  | .inf _ => Config.tointNonFinite.toNat
  | .fin neg mag => if neg then 0 else min (mag / F64.unit) 65535

/-- `round(a)` for finite `a`: the nearest integer, ties away from zero. For other values R138 gives
nothing and none reaches it (log 15). -/
def F64.nearest : F64 → Int
  | .nan => Config.roundNonFinite
  | .inf _ => Config.roundNonFinite
  | .fin neg mag => F64.signedMag neg ((2 * mag + F64.unit) / (2 * F64.unit))

/-- 0.0 -/
def F64.zero : F64 := .fin false 0

/-- 1.0 -/
def F64.one : F64 := .fin false F64.unit

end Sys2Proof.Machine
end

