-- ==== Sys2Proof/Machine/Geometry.lean ====
section
/-! DEFINITION. Geometry primitives (40_numerics_geometry.md R141 to R145) and the integer helpers of
R131 and R132. Expressions are grouped as the rules write them; every operation rounds once (R137). -/

namespace Sys2Proof.Machine

/-- A `Point2D` or `Vector2D` (00_scope.md R14). -/
structure Vec2 where
  x : F64
  y : F64
  deriving DecidableEq, Repr

/-- A `Point3D` or `Vector3D` (00_scope.md R14). -/
structure Vec3 where
  x : F64
  y : F64
  z : F64
  deriving DecidableEq, Repr

/-- Point minus point, componentwise (R141). -/
def sub2 (p q : Vec2) : Vec2 := { x := p.x.sub q.x, y := p.y.sub q.y }

/-- Point minus point, componentwise (R141). -/
def sub3 (p q : Vec3) : Vec3 := { x := p.x.sub q.x, y := p.y.sub q.y, z := p.z.sub q.z }

/-- `cross(a, b)` (R142). -/
def cross (a b : Vec3) : Vec3 :=
  { x := (a.y.mul b.z).sub (a.z.mul b.y)
    y := (a.z.mul b.x).sub (a.x.mul b.z)
    z := (a.x.mul b.y).sub (a.y.mul b.x) }

/-- `len2(a) = sqrt(a.x*a.x + a.y*a.y)` (R143). -/
def len2 (a : Vec2) : F64 := ((a.x.mul a.x).add (a.y.mul a.y)).sqrt

/-- `len3(a) = sqrt((a.x*a.x + a.y*a.y) + a.z*a.z)` (R143). -/
def len3 (a : Vec3) : F64 := (((a.x.mul a.x).add (a.y.mul a.y)).add (a.z.mul a.z)).sqrt

/-- `norm2(a)`: division by the length. Not defined for length 0 (R144; log 16). -/
def norm2 (a : Vec2) : Option Vec2 :=
  let l := len2 a
  if l.eq F64.zero then none else some { x := a.x.div l, y := a.y.div l }

/-- `norm3(a)`: division by the length. Not defined for length 0 (R144; log 16). -/
def norm3 (a : Vec3) : Option Vec3 :=
  let l := len3 a
  if l.eq F64.zero then none else some { x := a.x.div l, y := a.y.div l, z := a.z.div l }

/-- `interp(w, u, v, a0, a1, a2) = (w*a0 + u*a1) + v*a2` (R145). -/
def interp (w u v a0 a1 a2 : F64) : F64 := ((w.mul a0).add (u.mul a1)).add (v.mul a2)

/-- `clamp(v, lo, hi) = max(lo, min(v, hi))` (R131). -/
def clamp (v lo hi : Int) : Int := max lo (min v hi)

/-- `sat8(k) = clamp(k, 0, 255)` (R132). -/
def sat8 (k : Int) : Byte := BitVec.ofNat 8 (clamp k 0 255).toNat

/-- `sign(v)`: −1, 0 or 1 (R131). -/
def sign (v : Int) : Int := if v < 0 then -1 else if v = 0 then 0 else 1

end Sys2Proof.Machine
end

