-- ==== Sys2Proof/Syntax.lean ====
section
/-! DEFINITION. The instructions of TRB: one constructor per row of spec/opcode_table.json, the 19
commands of 30_encoding.md R101 and the 2 packet types of R102. -/

namespace Sys2Proof

/-- An image slot number, the fields `s` and `t` of a command word (R100, R103 (f); NIMG = 2, R12). -/
inductive Slot where
  | s0
  | s1
  deriving DecidableEq, Repr

/-- The instructions. `tex` is `some t` when the word's `tex` bit is 1 and `t` is the texture slot
(R100); `n` of a cursor command is the word's 4-bit field; `n` of a packet is the low 7 bits of the
repetition byte, the count minus one (R96). -/
inductive Instr where
  | nop
  | pack
  | unpack
  | from24
  | crd (n : BitVec 4)
  | cpk (n : BitVec 4)
  | csk
  | cac (n : BitVec 4)
  | inew (s : Slot)
  | iget (s : Slot)
  | iset (s : Slot)
  | ihdr
  | idec (s : Slot)
  | ienc (s : Slot)
  | zclr (s : Slot)
  | line (s : Slot)
  | tri (s : Slot) (tex : Option Slot) (zen : Bool)
  | face (s : Slot) (tex : Option Slot) (zen : Bool)
  | render (s : Slot) (tex : Option Slot)
  | raw (n : BitVec 7)
  | run (n : BitVec 7)
  deriving DecidableEq, Repr

end Sys2Proof
end

