-- ==== Sys2Proof/WellFormed.lean ====
section
/-! DEFINITION. The conditions on an instruction's operands that 30_encoding.md R104 makes part of the
legality of a command word: `n <= 8` for CRD, CPK and CAC, and a texture slot other than the target. -/

namespace Sys2Proof

/-- A texture slot differs from the target slot (R104, 70_reset_and_hazards.md R343). -/
def texOk (s : Slot) (tex : Option Slot) : Bool := tex != some s

/-- The instruction is one that some legal word or repetition byte encodes. -/
def Instr.wf : Instr → Bool
  | .nop => true
  | .pack => true
  | .unpack => true
  | .from24 => true
  | .crd n => n ≤ 8#4
  | .cpk n => n ≤ 8#4
  | .csk => true
  | .cac n => n ≤ 8#4
  | .inew _ => true
  | .iget _ => true
  | .iset _ => true
  | .ihdr => true
  | .idec _ => true
  | .ienc _ => true
  | .zclr _ => true
  | .line _ => true
  | .tri s tex _ => texOk s tex
  | .face s tex _ => texOk s tex
  | .render s tex => texOk s tex
  | .raw _ => true
  | .run _ => true

end Sys2Proof
end

