-- ==== Sys2Proof/Decode.lean ====
section
/-! DEFINITION. Decoding and encoding: the 32-bit command word (30_encoding.md R100, R101, R104) and
the repetition byte of a run-length packet (R96, R102). -/

namespace Sys2Proof

/-- What the decoder reads: a word written to CMD, or a repetition byte of the packet stream. -/
inductive Code where
  | cmd32 (w : Word)
  | rle8 (b : Byte)
  deriving DecidableEq, Repr

/-- Why a command word is illegal: the conditions of R104, each by name. TRB reports every one of
them alike (IllegalOperation, reason 0). -/
inductive Reject where
  /-- bits[31:20] or bits[15:12] are not 0 -/
  | reservedBits
  /-- `op` is not in R101's table -/
  | unknownOp
  /-- a field the command does not use is not 0 -/
  | unusedField
  /-- `n > 8` in CRD, CPK or CAC -/
  | countTooLarge
  /-- `tex = 0` and `t = 1` -/
  | slotWithoutTex
  /-- `tex = 1` and `t = s` -/
  | textureIsTarget
  deriving DecidableEq, Repr

/-- The fields of a command word (R100). -/
structure CmdFields where
  op : Byte
  s : Bool
  t : Bool
  tex : Bool
  zen : Bool
  mid : BitVec 4
  n : BitVec 4
  hi : BitVec 12
  deriving DecidableEq, Repr

/-- R100: op 7:0, s 8, t 9, tex 10, zen 11, zero 15:12, n 19:16, zero 31:20. -/
def cmdFields (w : Word) : CmdFields :=
  { op := w.extractLsb' 0 8
    s := w.getLsbD 8
    t := w.getLsbD 9
    tex := w.getLsbD 10
    zen := w.getLsbD 11
    mid := w.extractLsb' 12 4
    n := w.extractLsb' 16 4
    hi := w.extractLsb' 20 12 }

/-- The word with the given fields and zeros elsewhere (R100). -/
def cmdWordOf (op : Byte) (s t tex zen : Bool) (n : BitVec 4) : Word :=
  0#12 ++ n ++ 0#4 ++ BitVec.ofBool zen ++ BitVec.ofBool tex ++ BitVec.ofBool t ++ BitVec.ofBool s ++ op

/-- R103 (f): a slot field is an unsigned 1-bit number. -/
def slotOfBit (b : Bool) : Slot := if b then .s1 else .s0

/-- The 1-bit number of a slot. -/
def Slot.bit : Slot → Bool
  | .s0 => false
  | .s1 => true

/-- A command that uses no field (R101, R104). -/
def decodePlain (f : CmdFields) (i : Instr) : Except Reject Instr :=
  if f.s || f.t || f.tex || f.zen || f.n != 0#4 then .error .unusedField else .ok i

/-- A command that uses `n` alone, at most 8 (R101, R103 (e), R104). -/
def decodeCount (f : CmdFields) (mk : BitVec 4 → Instr) : Except Reject Instr :=
  if f.s || f.t || f.tex || f.zen then .error .unusedField
  else if 8#4 < f.n then .error .countTooLarge
  else .ok (mk f.n)

/-- A command that uses `s` alone (R101, R104). -/
def decodeSlot (f : CmdFields) (mk : Slot → Instr) : Except Reject Instr :=
  if f.t || f.tex || f.zen || f.n != 0#4 then .error .unusedField else .ok (mk (slotOfBit f.s))

/-- The fields `t` and `tex` together: the texture slot, if one is bound (R100, R104). -/
def decodeTex (f : CmdFields) : Except Reject (Option Slot) :=
  if f.tex then
    if f.t = f.s then .error .textureIsTarget else .ok (some (slotOfBit f.t))
  else if f.t then .error .slotWithoutTex
  else .ok none

/-- TRI and FACE: `s`, `t`, `tex`, `zen` (R101, R104). -/
def decodeFill (f : CmdFields) (mk : Slot → Option Slot → Bool → Instr) : Except Reject Instr :=
  if f.n != 0#4 then .error .unusedField
  else (decodeTex f).map fun tex => mk (slotOfBit f.s) tex f.zen

/-- RENDER: `s`, `t`, `tex` (R101, R104). -/
def decodeRender (f : CmdFields) (mk : Slot → Option Slot → Instr) : Except Reject Instr :=
  if f.zen || f.n != 0#4 then .error .unusedField
  else (decodeTex f).map fun tex => mk (slotOfBit f.s) tex

/-- The command a word stands for, or why it is illegal (R101, R104). -/
def decodeCmd (w : Word) : Except Reject Instr :=
  let f := cmdFields w
  if f.hi != 0#12 || f.mid != 0#4 then .error .reservedBits
  else match f.op.toNat with
    | 0x00 => decodePlain f .nop
    | 0x01 => decodePlain f .pack
    | 0x02 => decodePlain f .unpack
    | 0x03 => decodePlain f .from24
    | 0x10 => decodeCount f .crd
    | 0x11 => decodeCount f .cpk
    | 0x12 => decodePlain f .csk
    | 0x13 => decodeCount f .cac
    | 0x20 => decodeSlot f .inew
    | 0x21 => decodeSlot f .iget
    | 0x22 => decodeSlot f .iset
    | 0x23 => decodePlain f .ihdr
    | 0x24 => decodeSlot f .idec
    | 0x25 => decodeSlot f .ienc
    | 0x30 => decodeSlot f .zclr
    | 0x31 => decodeSlot f .line
    | 0x32 => decodeFill f .tri
    | 0x33 => decodeFill f .face
    | 0x34 => decodeRender f .render
    | _ => .error .unknownOp

/-- Bit 7 of a repetition byte: 0 = RAW packet, 1 = RUN packet (R96). -/
def repIsRun (b : Byte) : Bool := b.getLsbD 7

/-- Bits 6:0 of a repetition byte: the count minus one (R96). -/
def repCount (b : Byte) : BitVec 7 := b.extractLsb' 0 7

/-- The packet a repetition byte starts. Every byte is legal (R96, R102). -/
def decodeRep (b : Byte) : Instr :=
  if repIsRun b then .run (repCount b) else .raw (repCount b)

/-- The decoder: total, rejecting by name. -/
def decode : Code → Except Reject Instr
  | .cmd32 w => decodeCmd w
  | .rle8 b => .ok (decodeRep b)

/-- A command that uses `s`, `t`, `tex`, `zen`. -/
def encodeFill (op : Byte) (s : Slot) (tex : Option Slot) (zen : Bool) : Word :=
  match tex with
  | none => cmdWordOf op s.bit false false zen 0#4
  | some t => cmdWordOf op s.bit t.bit true zen 0#4

/-- The encoder, from R96, R100 and R101. -/
def encode : Instr → Code
  | .nop => .cmd32 (cmdWordOf 0x00#8 false false false false 0#4)
  | .pack => .cmd32 (cmdWordOf 0x01#8 false false false false 0#4)
  | .unpack => .cmd32 (cmdWordOf 0x02#8 false false false false 0#4)
  | .from24 => .cmd32 (cmdWordOf 0x03#8 false false false false 0#4)
  | .crd n => .cmd32 (cmdWordOf 0x10#8 false false false false n)
  | .cpk n => .cmd32 (cmdWordOf 0x11#8 false false false false n)
  | .csk => .cmd32 (cmdWordOf 0x12#8 false false false false 0#4)
  | .cac n => .cmd32 (cmdWordOf 0x13#8 false false false false n)
  | .inew s => .cmd32 (cmdWordOf 0x20#8 s.bit false false false 0#4)
  | .iget s => .cmd32 (cmdWordOf 0x21#8 s.bit false false false 0#4)
  | .iset s => .cmd32 (cmdWordOf 0x22#8 s.bit false false false 0#4)
  | .ihdr => .cmd32 (cmdWordOf 0x23#8 false false false false 0#4)
  | .idec s => .cmd32 (cmdWordOf 0x24#8 s.bit false false false 0#4)
  | .ienc s => .cmd32 (cmdWordOf 0x25#8 s.bit false false false 0#4)
  | .zclr s => .cmd32 (cmdWordOf 0x30#8 s.bit false false false 0#4)
  | .line s => .cmd32 (cmdWordOf 0x31#8 s.bit false false false 0#4)
  | .tri s tex zen => .cmd32 (encodeFill 0x32#8 s tex zen)
  | .face s tex zen => .cmd32 (encodeFill 0x33#8 s tex zen)
  | .render s tex => .cmd32 (encodeFill 0x34#8 s tex false)
  | .raw n => .rle8 (0#1 ++ n)
  | .run n => .rle8 (1#1 ++ n)

/-- The command word of an instruction as a report's EINFO0 shows it (60_exceptions.md R291): the
word itself. A packet has no command word and no report of its own shows one; its byte stands here. -/
def cmdWord (i : Instr) : Word :=
  match encode i with
  | .cmd32 w => w
  | .rle8 b => b.setWidth 32

/-- The instruction is one of the 19 commands (format CMD32), not a packet (R101, R102). -/
def Instr.isCommand (i : Instr) : Bool :=
  match encode i with
  | .cmd32 _ => true
  | .rle8 _ => false

/-- The instruction of an opcode-table word: 32-bit rows are command words, 8-bit rows repetition
bytes (R110). -/
def decodeTableWord (nbits w : Nat) : Option Instr :=
  if nbits = 8 then (decode (.rle8 (BitVec.ofNat 8 w))).toOption
  else if nbits = 32 then (decode (.cmd32 (BitVec.ofNat 32 w))).toOption
  else none

end Sys2Proof
end

