-- ==== Sys2Proof/Machine/State.lean ====
section
/-! DEFINITION. The state of TRB (spec 10_state.md) as plain data, its reset value (R40), and the
reasons a step can stop. -/

namespace Sys2Proof.Machine

/-! ## Memories -/

/-- An element-addressed memory space with `n`-bit elements whose elements hold `fill` when the space
is created (20_memory.md R60). `cells` lists (element index, element) and leaves out every element
that equals `fill`: what an unlisted element reads as is `fill`, here and nowhere else (log 10). -/
structure Memory (n : Nat) (fill : BitVec n) where
  cells : List (Nat × BitVec n)
  deriving DecidableEq, Repr

/-- `PIX[s]`: packed colours, created as opaque black (R34, 43_codec.md R191). -/
abbrev PixMem := Memory 32 Config.newFill

/-- `ZB.d`: f64 bit patterns, created as minus infinity (R36, 44_rasterizer.md R240). -/
abbrev DepthMem := Memory 64 Config.negInfBits

/-- The memory right after creation. -/
def Memory.empty {n : Nat} {fill : BitVec n} : Memory n fill := { cells := [] }

/-- The canonical form: indices strictly rising, and no listed element equal to what an unlisted one
reads as. -/
abbrev Memory.wf {n : Nat} {fill : BitVec n} (m : Memory n fill) : Prop :=
  m.cells.Pairwise (fun x y => x.1 < y.1) ∧ ∀ c ∈ m.cells, c.2 ≠ fill

/-! ## Registers -/

/-- The ten header fields k = 1 to 10 of R32. -/
structure Header where
  idLength : Byte
  colorMapType : Byte
  imageType : Byte
  colorMapSpec : BitVec 40
  xOrigin : Half
  yOrigin : Half
  width : Half
  height : Half
  bitsPerPixel : Byte
  imageDescriptor : Byte
  deriving DecidableEq, Repr

/-- An image slot (R33): valid bit, header, pixel memory. The length of the pixel memory is
`width * height` of the header (R34). -/
structure Image where
  valid : Bool
  hdr : Header
  pix : PixMem
  deriving DecidableEq, Repr

/-- The header staging registers HS with their valid bit (R35). -/
structure Staging where
  valid : Bool
  hdr : Header
  deriving DecidableEq, Repr

/-- The depth buffer ZB (R36); `d` has `w * h` elements. -/
structure DepthBuffer where
  valid : Bool
  w : Half
  h : Half
  d : DepthMem
  deriving DecidableEq, Repr

/-! ## The MESH view (20_memory.md R70) -/

/-- A vertex: three f64 bit patterns. -/
structure MeshVertex where
  x : Dword
  y : Dword
  z : Dword
  deriving DecidableEq, Repr

/-- A texture point: two f64 bit patterns. -/
structure MeshTexPoint where
  x : Dword
  y : Dword
  deriving DecidableEq, Repr

/-- A face: three vertex indices and three texture indices, 0-based. -/
structure MeshFace where
  v0 : Nat
  v1 : Nat
  v2 : Nat
  t0 : Nat
  t1 : Nat
  t2 : Nat
  deriving DecidableEq, Repr

/-- The read-only view the host supplies: `vertex_count` and `face_count` are the lengths of the
lists, `get_vertex`, `get_face` and `get_texture` their elements (R70; log 3). -/
structure Mesh where
  vertices : List MeshVertex
  faces : List MeshFace
  texPoints : List MeshTexPoint
  deriving DecidableEq, Repr

/-! ## A run-length decode in progress -/

/-- The loop variables of `DecodeRle` (43_codec.md R207): the slot IDEC will write, the parsed header,
and the pixels produced so far in linear-index order (`produced` is their number). They live only
inside one IDEC (R41); log 5. -/
structure Decoding where
  slot : Slot
  hdr : Header
  pix : List Word
  deriving DecidableEq, Repr

/-! ## What the host does -/

/-- The host actions of 70_reset_and_hazards.md R339. Register numbers are those of 10_state.md R28. -/
inductive HostAction where
  /-- load `SRC` with a byte sequence -/
  | loadSrc (bytes : List Byte)
  /-- write a 32-bit word to CMD (R29) -/
  | command (w : Word)
  /-- write a register by its number -/
  | writeReg (num : Nat) (v : Dword)
  /-- read a register by its number -/
  | readReg (num : Nat)
  /-- read `SNK[0 .. SNKLEN)` -/
  | readSnk
  /-- empty `SNK` -/
  | emptySnk
  /-- read `PIX[s]` -/
  | readPix (s : Slot)
  /-- read `ZB.d` -/
  | readDepth
  /-- supply or change the MESH view -/
  | setMesh (m : Mesh)
  /-- reset (R330) -/
  | reset
  deriving DecidableEq, Repr

/-! ## The error report -/

/-- The error kinds a command can end with (60_exceptions.md R290). Kind 5 is never raised and needs
no constructor (R298). -/
inductive ErrKind where
  | outOfBounds
  | unexpectedValue
  | unsupportedFormat
  | invalidCoordinate
  | malformedStream
  | illegalOperation
  deriving DecidableEq, Repr

/-- The arguments of `raise K(i0, i1, off)` (00_scope.md R16). -/
structure Report where
  kind : ErrKind
  info0 : Dword
  info1 : Dword
  off : Dword
  deriving DecidableEq, Repr

/-! ## The state -/

/-- The complete state (10_state.md R20), then the model's own fields `mesh` (log 3), `dec` (log 5)
and `host` (log 4). -/
structure State where
  /-- A[0..15] (R21) -/
  a : Vector Dword 16
  /-- R[0..3] (R22) -/
  r : Vector Dword 4
  /-- COFF (R24); a natural number (log 11) -/
  coff : Nat
  /-- SRC (R25); SRCLEN is its length -/
  src : List Byte
  /-- SNK (R26); SNKLEN is its length -/
  snk : List Byte
  /-- ERR (R30) -/
  err : Byte
  /-- EINFO0 (R31) -/
  einfo0 : Dword
  /-- EINFO1 (R31) -/
  einfo1 : Dword
  /-- EOFF (R31) -/
  eoff : Dword
  /-- IMG[0] (R33) -/
  img0 : Image
  /-- IMG[1] (R33) -/
  img1 : Image
  /-- HS (R35) -/
  hs : Staging
  /-- ZB (R36) -/
  zb : DepthBuffer
  /-- the MESH view the host has supplied (20_memory.md R70) -/
  mesh : Mesh
  /-- the run-length decode in progress, if any -/
  dec : Option Decoding
  /-- the host actions not yet performed, first to come first -/
  host : List HostAction
  deriving DecidableEq, Repr

/-! ## Reset (10_state.md R40, 70_reset_and_hazards.md R330) -/

/-- The header registers of an invalid slot read 0 (R33, R40). -/
def Header.zero : Header :=
  { idLength := 0, colorMapType := 0, imageType := 0, colorMapSpec := 0, xOrigin := 0, yOrigin := 0,
    width := 0, height := 0, bitsPerPixel := 0, imageDescriptor := 0 }

/-- A slot that holds no image (R33). -/
def Image.invalid : Image := { valid := false, hdr := Header.zero, pix := Memory.empty }

/-- HS before any header was parsed (R40). -/
def Staging.invalid : Staging := { valid := false, hdr := Header.zero }

/-- No depth buffer: `ZW` and `ZH` read 0 and `ZB.d` has length 0 (R37). -/
def DepthBuffer.invalid : DepthBuffer := { valid := false, w := 0, h := 0, d := Memory.empty }

/-- The view with no vertex, no face and no texture point (log 3). -/
def Mesh.vacant : Mesh := { vertices := [], faces := [], texPoints := [] }

/-- The machine right after reset (R40). `a` and `r` are DESIGN CHOICES (logs 1 and 2): the spec
leaves them unspecified. `mesh`, `dec` and `host` are the model's own (logs 3, 5 and 4). -/
def State.reset : State :=
  { a := Vector.replicate 16 0
    r := Vector.replicate 4 0
    coff := 0
    src := []
    snk := []
    err := 0
    einfo0 := 0
    einfo1 := 0
    eoff := 0
    img0 := Image.invalid
    img1 := Image.invalid
    hs := Staging.invalid
    zb := DepthBuffer.invalid
    mesh := Mesh.vacant
    dec := none
    host := [] }

/-! ## Stops -/

/-- Why the machine would stop with a fault: never. "the block itself is never left in a failed or
locked state, and every error is recoverable" (60_exceptions.md R303); an error ends a command with a
report, a next state. -/
inductive Fault where
  deriving DecidableEq, Repr

/-- Why a step has no outcome in the model. All are safe: nothing is claimed of such a run. -/
inductive Refusal where
  /-- `exec`, for an instruction without a meaning yet. Safe. -/
  | notModelled (mnemonic : String)
  /-- RENDER, when the MESH view breaks a precondition of 20_memory.md R70: "What TRB does when a
  precondition fails is not defined" (U8; log 12). Safe. -/
  | meshPrecondition
  /-- A host write of a register number that is not in the map of 10_state.md R28 or is read-only, or
  a host read of a number that is not in the map or is write-only (U12; log 13). Safe. -/
  | registerNumber (num : Nat)
  /-- RAW or RUN with no run-length decode in progress: packets are "executed by the loop of IDEC and
  not by the host" (30_encoding.md R102; log 14). `step` never raises it. Safe. -/
  | packetOutsideDecode
  deriving DecidableEq, Repr

end Sys2Proof.Machine
end

