-- ==== Sys2Proof/Machine/Flags.lean ====
section
/-! DEFINITION. TRB has no flags and no condition codes (10_state.md R27): no instruction computes one.
What the host tests after a command is the error report; this file gives its codes
(60_exceptions.md R290, R297). -/

namespace Sys2Proof.Machine

/-- The code of an error kind in `ERR` (R290). -/
def ErrKind.code : ErrKind → Byte
  | .outOfBounds => 1#8
  | .unexpectedValue => 2#8
  | .unsupportedFormat => 3#8
  | .invalidCoordinate => 4#8
  | .malformedStream => 6#8
  | .illegalOperation => 7#8

/-- The conditions that raise IllegalOperation (R297). -/
inductive IllegalReason where
  /-- reason 0: the command word is illegal -/
  | word
  /-- reason 1: slot `s` is not valid -/
  | slot
  /-- reason 2: `tex = 1` and slot `t` is not valid -/
  | texture
  /-- reason 3: `zen = 1` and no depth buffer of the target's dimensions -/
  | depth
  /-- reason 4: a vertex x or y is NaN or infinite -/
  | vertex
  /-- reason 5: width or height operand outside 1 to 65535 -/
  | dimension
  deriving DecidableEq, Repr

/-- The reason code that `EINFO1` holds (R297). -/
def IllegalReason.code : IllegalReason → Dword
  | .word => 0#64
  | .slot => 1#64
  | .texture => 2#64
  | .depth => 3#64
  | .vertex => 4#64
  | .dimension => 5#64

end Sys2Proof.Machine
end

