-- ==== Sys2Proof/Machine/Ops.lean ====
section
/-! DEFINITION. The named operations over the memories and registers: element-addressed memory,
register writes, the error report (raise and clear), and the byte-cursor primitives. -/

namespace Sys2Proof.Machine

/-! ## Element-addressed memory (20_memory.md R60) -/

/-- The element at index `i` of a listed memory. -/
def cellsRead {n : Nat} (fill : BitVec n) : List (Nat × BitVec n) → Nat → BitVec n
  | [], _ => fill
  | (k, v) :: t, i => if i = k then v else cellsRead fill t i

/-- Replace the element at index `i`, keeping the canonical form. -/
def cellsWrite {n : Nat} (fill : BitVec n) (i : Nat) (v : BitVec n) :
    List (Nat × BitVec n) → List (Nat × BitVec n)
  | [] => if v = fill then [] else [(i, v)]
  | (k, u) :: t =>
    if i < k then (if v = fill then (k, u) :: t else (i, v) :: (k, u) :: t)
    else if i = k then (if v = fill then t else (i, v) :: t)
    else (k, u) :: cellsWrite fill i v t

/-- The listed form of the elements `vs` at the indices from `i` on. -/
def cellsOfList {n : Nat} (fill : BitVec n) : Nat → List (BitVec n) → List (Nat × BitVec n)
  | _, [] => []
  | i, v :: vs => if v = fill then cellsOfList fill (i + 1) vs else (i, v) :: cellsOfList fill (i + 1) vs

/-- `MemRead(space, i, 1)` (00_scope.md R15). -/
def Memory.read {n : Nat} {fill : BitVec n} (m : Memory n fill) (i : Nat) : BitVec n :=
  cellsRead fill m.cells i

/-- `MemWrite(space, i, 1, v)` (00_scope.md R15). -/
def Memory.write {n : Nat} {fill : BitVec n} (m : Memory n fill) (i : Nat) (v : BitVec n) :
    Memory n fill :=
  { cells := cellsWrite fill i v m.cells }

/-- The memory whose elements 0, 1, ... are `vs`. -/
def Memory.ofList {n : Nat} {fill : BitVec n} (vs : List (BitVec n)) : Memory n fill :=
  { cells := cellsOfList fill 0 vs }

/-- The first `len` elements, in index order. -/
def Memory.toList {n : Nat} {fill : BitVec n} (m : Memory n fill) (len : Nat) : List (BitVec n) :=
  (List.range len).map m.read

/-! ## Headers, slots, the depth buffer -/

/-- The number of pixels of an image with this header, `WIDTH * HEIGHT` (R34, R201). -/
def Header.area (h : Header) : Nat := h.width.toNat * h.height.toNat

/-- The linear index `y*width + x` (20_memory.md R63). -/
def linearIndex (w x y : Nat) : Nat := y * w + x

/-- `IMG[k]`. -/
def State.img (s : State) : Slot → Image
  | .s0 => s.img0
  | .s1 => s.img1

/-- `IMG[k].w` (R33). -/
def State.imgW (s : State) (k : Slot) : Nat := (s.img k).hdr.width.toNat

/-- `IMG[k].h` (R33). -/
def State.imgH (s : State) (k : Slot) : Nat := (s.img k).hdr.height.toNat

/-- Replace slot `k`: valid bit, header and pixel memory together. -/
def State.setImg (s : State) (k : Slot) (im : Image) : State :=
  { s with
    img0 := match k with
      | .s0 => im
      | .s1 => s.img0
    img1 := match k with
      | .s0 => s.img1
      | .s1 => im }

/-- Replace the pixel memory of slot `k`. -/
def State.setPix (s : State) (k : Slot) (m : PixMem) : State :=
  s.setImg k { s.img k with pix := m }

/-- Replace `ZB`. -/
def State.setZb (s : State) (z : DepthBuffer) : State := { s with zb := z }

/-- A depth buffer of the given dimensions with every element minus infinity (R240). -/
def DepthBuffer.fresh (w h : Half) : DepthBuffer :=
  { valid := true, w := w, h := h, d := Memory.empty }

/-- `HS <- hdr; HS.VALID <- 1` (R196). -/
def State.setHs (s : State) (hdr : Header) : State := { s with hs := { valid := true, hdr := hdr } }

/-- `R[i] <- v` (R22). -/
def State.setR (s : State) (i : Fin 4) (v : Dword) : State := { s with r := s.r.set i v }

/-- `A[i] <- v`, which the host alone does (R21). -/
def State.setA (s : State) (i : Fin 16) (v : Dword) : State := { s with a := s.a.set i v }

/-- `COFF <- v` (R24). -/
def State.setCoff (s : State) (v : Nat) : State := { s with coff := v }

/-- `SnkAppend(b)` (00_scope.md R15). An append cannot fail (R26). -/
def State.snkAppend (s : State) (b : List Byte) : State := { s with snk := s.snk ++ b }

/-- The run-length decode in progress. -/
def State.setDec (s : State) (d : Option Decoding) : State := { s with dec := d }

/-- `SRCLEN` (R25). -/
def State.srclen (s : State) : Nat := s.src.length

/-- `SNKLEN` (R26). -/
def State.snklen (s : State) : Nat := s.snk.length

/-! ## The error report (60_exceptions.md R300): error entry, and its clearing by the next command -/

/-- Error entry, R300 step (3): `raise K(i0, i1, off)` writes the four report registers and nothing
else. There is no saved program counter, no mode and no vector. -/
def State.raise (s : State) (e : Report) : State :=
  { s with err := e.kind.code, einfo0 := e.info0, einfo1 := e.info1, eoff := e.off }

/-- R300 step (1), at the start of every command: the four report registers become 0. It is also the
only return from an error there is (R303). -/
def State.clearReport (s : State) : State :=
  { s with err := 0, einfo0 := 0, einfo1 := 0, eoff := 0 }

/-- The report of IllegalOperation (R291): the command word, the reason, COFF. -/
def illegal (w : Word) (reason : IllegalReason) (coff : Nat) : Report :=
  { kind := .illegalOperation, info0 := w.setWidth 64, info1 := reason.code, off := BitVec.ofNat 64 coff }

/-- A command whose precondition `reason` fails ends with IllegalOperation and writes nothing else. -/
def State.raiseIllegal (s : State) (w : Word) (reason : IllegalReason) : State :=
  s.raise (illegal w reason s.coff)

/-- An illegal command word (30_encoding.md R104): the report with reason 0, nothing else. -/
def State.illegalWord (s : State) (w : Word) : State :=
  s.clearReport.raiseIllegal w .word

/-! ## Byte strings in registers (20_memory.md R68) -/

/-- `regbytes(b)`: byte k of `b` in bits[8k+7:8k]; bytes from the ninth on are not carried (R177). -/
def regbytes : List Byte → Dword
  | [] => 0#64
  | b :: t => (regbytes t <<< 8) ||| b.setWidth 64

/-- The bytes 0 to n-1 of a register, byte k from bits[8k+7:8k]. -/
def bytesOfReg (v : Dword) (n : Nat) : List Byte :=
  (List.range n).map fun k => v.extractLsb' (8 * k) 8

/-! ## The byte cursor (42_cursor.md) -/

/-- The outcome of a cursor procedure over a fixed `SRC`: a result with the new `COFF`, or a raise
with the `COFF` it leaves (00_scope.md R16). -/
inductive Scan (α : Type) where
  | ok (a : α) (coff : Nat)
  | err (e : Report) (coff : Nat)
  deriving DecidableEq, Repr

/-- Sequencing: a raise is propagated (00_scope.md R16). -/
def Scan.bind {α β : Type} (x : Scan α) (f : α → Nat → Scan β) : Scan β :=
  match x with
  | .ok a c => f a c
  | .err e c => .err e c

/-- The report of a failed `read` or `peek` (R172, R291). -/
def outOfBounds (src : List Byte) (n coff : Nat) : Report :=
  { kind := .outOfBounds
    info0 := BitVec.ofNat 64 n
    info1 := BitVec.ofNat 64 (src.length - coff)
    off := BitVec.ofNat 64 coff }

/-- `read(n)` (R172, R174). -/
def cursorRead (src : List Byte) (n coff : Nat) : Scan (List Byte) :=
  if src.length < coff + n then .err (outOfBounds src n coff) coff
  else .ok ((src.drop coff).take n) (coff + n)

/-- `peek(n)` (R173). -/
def cursorPeek (src : List Byte) (n coff : Nat) : Scan (List Byte) :=
  if src.length < coff + n then .err (outOfBounds src n coff) coff
  else .ok ((src.drop coff).take n) coff

/-- `seek(pos)` (R176). -/
def cursorSeek (src : List Byte) (pos coff : Nat) : Scan Unit :=
  if src.length < pos then
    .err { kind := .outOfBounds, info0 := BitVec.ofNat 64 pos, info1 := BitVec.ofNat 64 src.length,
           off := BitVec.ofNat 64 coff } coff
  else .ok () pos

/-- `accept(expected)` (R177, R178). -/
def cursorAccept (src : List Byte) (expected : List Byte) (coff : Nat) : Scan Unit :=
  (cursorRead src expected.length coff).bind fun actual c =>
    if actual = expected then .ok () c
    else .err { kind := .unexpectedValue, info0 := regbytes expected, info1 := regbytes actual,
                off := BitVec.ofNat 64 coff } coff

/-- `read_u8()` (R179). -/
def cursorU8 (src : List Byte) (coff : Nat) : Scan Byte :=
  (cursorRead src 1 coff).bind fun b c => .ok (b.getD 0 0#8) c

/-- `read_u16le()`: `b[0] + 256*b[1]` (R179, R65). -/
def cursorU16 (src : List Byte) (coff : Nat) : Scan Half :=
  (cursorRead src 2 coff).bind fun b c => .ok (b.getD 1 0#8 ++ b.getD 0 0#8) c

end Sys2Proof.Machine
end

