-- ==== Sys2Proof/Machine/Operands.lean ====
section
/-! DEFINITION. The operand forms: which bits of which A register a command reads and how
(10_state.md R23, 30_encoding.md R103 (g), (h); 44_rasterizer.md R262). -/

namespace Sys2Proof.Machine

/-- `A[i]`, all 64 bits (R21). -/
def State.areg (s : State) (i : Fin 16) : Dword := s.a.get i

/-- `A[i]` as an unsigned integer of all 64 bits: CSK, IGET, ISET, INEW (R23). -/
def State.argFull (s : State) (i : Fin 16) : Nat := (s.areg i).toNat

/-- `A[i][7:0]`: the channels of PACK and FROM24 (R23). -/
def State.argChannel (s : State) (i : Fin 16) : Byte := (s.areg i).extractLsb' 0 8

/-- `A[i][31:0]`: a colour (R23). -/
def State.argColor (s : State) (i : Fin 16) : Word := (s.areg i).extractLsb' 0 32

/-- `A[i][15:0]`: a coordinate of LINE (R23). -/
def State.argCoord (s : State) (i : Fin 16) : Nat := ((s.areg i).extractLsb' 0 16).toNat

/-- `A[i]` as an f64 bit pattern: TRI and FACE (R23, R103 (h)). -/
def State.argF64 (s : State) (i : Fin 16) : F64 := F64.ofBits (s.areg i)

/-- The three vertices of a triangle. -/
structure Triangle where
  v0 : Vec3
  v1 : Vec3
  v2 : Vec3
  deriving DecidableEq, Repr

/-- The texture points attached to the three vertices. -/
structure TexCoords where
  t0 : Vec2
  t1 : Vec2
  t2 : Vec2
  deriving DecidableEq, Repr

/-- A[0..2] = v0, A[3..5] = v1, A[6..8] = v2 (44_rasterizer.md R262). -/
def State.argTriangle (s : State) : Triangle :=
  { v0 := { x := s.argF64 0, y := s.argF64 1, z := s.argF64 2 }
    v1 := { x := s.argF64 3, y := s.argF64 4, z := s.argF64 5 }
    v2 := { x := s.argF64 6, y := s.argF64 7, z := s.argF64 8 } }

/-- A[9], A[10] = t0; A[11], A[12] = t1; A[13], A[14] = t2 (44_rasterizer.md R262). -/
def State.argTexCoords (s : State) : TexCoords :=
  { t0 := { x := s.argF64 9, y := s.argF64 10 }
    t1 := { x := s.argF64 11, y := s.argF64 12 }
    t2 := { x := s.argF64 13, y := s.argF64 14 } }

end Sys2Proof.Machine
end

