-- ==== Sys2Proof/Machine/Color.lean ====
section
/-! DEFINITION. The colour model (41_color.md): pack, unpack, from24, grey and the commands PACK,
UNPACK, FROM24. -/

namespace Sys2Proof.Machine

/-- `pack(r, g, b, a)`: r in the most significant byte (R160, 30_encoding.md R90). -/
def pack (r g b a : Byte) : Word := r ++ g ++ b ++ a

/-- The four channels of a packed colour. -/
structure Channels where
  r : Byte
  g : Byte
  b : Byte
  a : Byte
  deriving DecidableEq, Repr

/-- `unpack(c)` (R160). -/
def unpack (c : Word) : Channels :=
  { r := c.extractLsb' 24 8, g := c.extractLsb' 16 8, b := c.extractLsb' 8 8, a := c.extractLsb' 0 8 }

/-- `from24(r, g, b)`: alpha fixed at 255 (R160). -/
def from24 (r g b : Byte) : Word := pack r g b 255#8

/-- `grey(k)` (R165). -/
def grey (k : Byte) : Word := pack k k k 255#8

/-- PACK (R161). -/
def execPack (s : State) : Host.Outcome State Fault Refusal :=
  let c := pack (s.argChannel 0) (s.argChannel 1) (s.argChannel 2) (s.argChannel 3)
  .next (s.clearReport.setR 0 (c.setWidth 64))

/-- UNPACK (R162). -/
def execUnpack (s : State) : Host.Outcome State Fault Refusal :=
  let c := unpack (s.argColor 0)
  .next ((((s.clearReport.setR 0 (c.r.setWidth 64)).setR 1 (c.g.setWidth 64)).setR 2
    (c.b.setWidth 64)).setR 3 (c.a.setWidth 64))

/-- FROM24 (R163). -/
def execFrom24 (s : State) : Host.Outcome State Fault Refusal :=
  let c := from24 (s.argChannel 0) (s.argChannel 1) (s.argChannel 2)
  .next (s.clearReport.setR 0 (c.setWidth 64))

end Sys2Proof.Machine
end

