-- ==== Sys2Proof/Machine/Cursor.lean ====
section
/-! DEFINITION. The cursor commands CRD, CPK, CSK, CAC (42_cursor.md R180 to R183) over the
primitives of Machine/Ops.lean. -/

namespace Sys2Proof.Machine

/-- A cursor procedure that raised: COFF where the procedure left it, then the report (R301). -/
def State.scanFailed (s : State) (e : Report) (coff : Nat) : State := (s.setCoff coff).raise e

/-- The bytes a cursor command obtained: `R[0] <- regbytes(b); R[1] <- zext_64(n)` (R180, R181). -/
def State.setBytes (s : State) (b : List Byte) (n : BitVec 4) : State :=
  (s.setR 0 (regbytes b)).setR 1 (n.setWidth 64)

/-- CRD and CPK share all but the primitive (R181). -/
def cursorBytes (n : BitVec 4) (x : Scan (List Byte)) (s : State) : State :=
  match x with
  | .ok b c => (s.setCoff c).setBytes b n
  | .err e c => s.scanFailed e c

/-- CSK and CAC write nothing but COFF (R182, R183). -/
def cursorMove (x : Scan Unit) (s : State) : State :=
  match x with
  | .ok _ c => s.setCoff c
  | .err e c => s.scanFailed e c

/-- CRD n (R180). -/
def execCrd (n : BitVec 4) (s : State) : Host.Outcome State Fault Refusal :=
  .next (cursorBytes n (cursorRead s.src n.toNat s.coff) s.clearReport)

/-- CPK n (R181). -/
def execCpk (n : BitVec 4) (s : State) : Host.Outcome State Fault Refusal :=
  .next (cursorBytes n (cursorPeek s.src n.toNat s.coff) s.clearReport)

/-- CSK (R182). -/
def execCsk (s : State) : Host.Outcome State Fault Refusal :=
  .next (cursorMove (cursorSeek s.src (s.argFull 0) s.coff) s.clearReport)

/-- CAC n (R183). -/
def execCac (n : BitVec 4) (s : State) : Host.Outcome State Fault Refusal :=
  .next (cursorMove (cursorAccept s.src (bytesOfReg (s.areg 0) n.toNat) s.coff) s.clearReport)

end Sys2Proof.Machine
end

