-- ==== Sys2Proof/Machine/Codec.lean ====
section
/-! DEFINITION. The image codec (43_codec.md): INEW, IGET, ISET, IHDR, IDEC, IENC and the packets RAW
and RUN that the decode loop of IDEC executes. -/

namespace Sys2Proof.Machine

/-! ## Creating an image and accessing pixels -/

/-- The header INEW writes (R191). -/
def newHeader (w h : Half) : Header :=
  { idLength := 0, colorMapType := 0, imageType := 2, colorMapSpec := 0, xOrigin := 0, yOrigin := 0,
    width := w, height := h, bitsPerPixel := 32, imageDescriptor := Config.idescW }

/-- A dimension operand is in 1 to 65535 (R191). -/
def dimensionOk (n : Nat) : Bool := 1 ≤ n && n ≤ 65535

/-- INEW s (R191). -/
def execInew (k : Slot) (s : State) : Host.Outcome State Fault Refusal :=
  let w := s.argFull 0
  let h := s.argFull 1
  if dimensionOk w && dimensionOk h then
    .next (s.clearReport.setImg k
      { valid := true, hdr := newHeader (BitVec.ofNat 16 w) (BitVec.ofNat 16 h), pix := Memory.empty })
  else .next (s.clearReport.raiseIllegal (cmdWord (.inew k)) .dimension)

/-- `x < w` and `y < h`, each on its own (20_memory.md R63). -/
def State.inImage (s : State) (k : Slot) (x y : Nat) : Bool := x < s.imgW k && y < s.imgH k

/-- The report of InvalidCoordinate (R192, 60_exceptions.md R291). -/
def invalidCoordinate (s : State) : Report :=
  { kind := .invalidCoordinate, info0 := s.areg 0, info1 := s.areg 1, off := BitVec.ofNat 64 s.coff }

/-- IGET s (R192). -/
def execIget (k : Slot) (s : State) : Host.Outcome State Fault Refusal :=
  if (s.img k).valid then
    if s.inImage k (s.argFull 0) (s.argFull 1) then
      .next (s.clearReport.setR 0
        (((s.img k).pix.read (linearIndex (s.imgW k) (s.argFull 0) (s.argFull 1))).setWidth 64))
    else .next (s.clearReport.raise (invalidCoordinate s))
  else .next (s.clearReport.raiseIllegal (cmdWord (.iget k)) .slot)

/-- ISET s (R193). -/
def execIset (k : Slot) (s : State) : Host.Outcome State Fault Refusal :=
  if (s.img k).valid then
    if s.inImage k (s.argFull 0) (s.argFull 1) then
      .next (s.clearReport.setPix k
        ((s.img k).pix.write (linearIndex (s.imgW k) (s.argFull 0) (s.argFull 1)) (s.argColor 2)))
    else .next (s.clearReport.raise (invalidCoordinate s))
  else .next (s.clearReport.raiseIllegal (cmdWord (.iset k)) .slot)

/-! ## The header parser -/

/-- The report of UnsupportedFormat: the field's offset in the header, the value read, the cursor
offset of the field (R199, 60_exceptions.md R291). -/
def unsupported (field : Nat) (value : Dword) (off : Nat) : Report :=
  { kind := .unsupportedFormat, info0 := BitVec.ofNat 64 field, info1 := value,
    off := BitVec.ofNat 64 off }

/-- `ParseHeader()` (R195): each field is checked when it is reached, in offset order. -/
def parseHeader (src : List Byte) (o : Nat) : Scan Header :=
  (cursorAccept src [0#8] o).bind fun _ c1 =>
  (cursorAccept src [0#8] c1).bind fun _ c2 =>
  (cursorU8 src c2).bind fun it c3 =>
  if it ≠ 2#8 ∧ it ≠ 10#8 then .err (unsupported 2 (it.setWidth 64) c2) c3 else
  (cursorAccept src [0#8, 0#8, 0#8, 0#8, 0#8] c3).bind fun _ c8 =>
  (cursorU16 src c8).bind fun xo c10 =>
  (cursorU16 src c10).bind fun yo c12 =>
  (cursorU16 src c12).bind fun w c14 =>
  if w = 0#16 then .err (unsupported 12 0#64 c12) c14 else
  (cursorU16 src c14).bind fun h c16 =>
  if h = 0#16 then .err (unsupported 14 0#64 c14) c16 else
  (cursorU8 src c16).bind fun bpp c17 =>
  if bpp ≠ 24#8 ∧ bpp ≠ 32#8 then .err (unsupported 16 (bpp.setWidth 64) c16) c17 else
  (cursorU8 src c17).bind fun d c18 =>
  .ok { idLength := 0, colorMapType := 0, imageType := it, colorMapSpec := 0, xOrigin := xo,
        yOrigin := yo, width := w, height := h, bitsPerPixel := bpp, imageDescriptor := d } c18

/-- IHDR (R197). -/
def execIhdr (s : State) : Host.Outcome State Fault Refusal :=
  match parseHeader s.src s.coff with
  | .ok hdr c => .next ((s.clearReport.setCoff c).setHs hdr)
  | .err e c => .next (s.clearReport.scanFailed e c)

/-! ## Pixel elements and the uncompressed stream -/

/-- `bpp(hdr)`: bytes per pixel, `BITS_PER_PIXEL / 8`, 3 or 4 in any parsed header (R201). -/
def Header.bytesPerPixel (h : Header) : Nat := h.bitsPerPixel.toNat / 8

/-- `PixelFromBytes(c)`: file order B, G, R and, at depth 32, A; at depth 24 there is no byte 3 and A is
255 (R202). -/
def pixelFromBytes (c : List Byte) : Word :=
  pack (c.getD 2 0#8) (c.getD 1 0#8) (c.getD 0 0#8) (c.getD 3 255#8)

/-- `PixelToBytes(c)`: B, G, R, A (R214). -/
def pixelToBytes (c : Word) : List Byte :=
  let p := unpack c
  [p.b, p.g, p.r, p.a]

/-- The first `n` chunks of `k` bytes of a stream, as pixels (R203). -/
def chunkPixels (k : Nat) : Nat → List Byte → List Word
  | 0, _ => []
  | n + 1, b => pixelFromBytes (b.take k) :: chunkPixels k n (b.drop k)

/-- `DecodeRaw(hdr)`, image type 2: one read for the whole stream (R203). -/
def decodeRaw (src : List Byte) (hdr : Header) (coff : Nat) : Scan (List Word) :=
  (cursorRead src (hdr.area * hdr.bytesPerPixel) coff).bind fun b c =>
    .ok (chunkPixels hdr.bytesPerPixel hdr.area b) c

/-! ## Run-length packets -/

/-- The count a packet encodes: the low 7 bits plus one (R96, R103 (b)). -/
def packetCount (n : BitVec 7) : Nat := n.toNat + 1

/-- `RawPacket(cnt, k)`: one `read(k)` per pixel (R208). -/
def rawPacket (src : List Byte) (k : Nat) : Nat → Nat → Scan (List Word)
  | 0, coff => .ok [] coff
  | cnt + 1, coff =>
    (cursorRead src k coff).bind fun b c =>
      (rawPacket src k cnt c).bind fun ps c' => .ok (pixelFromBytes b :: ps) c'

/-- `RunPacket(cnt, k)`: one pixel, replicated (R209). -/
def runPacket (src : List Byte) (k cnt coff : Nat) : Scan (List Word) :=
  (cursorRead src k coff).bind fun b c => .ok (List.replicate cnt (pixelFromBytes b)) c

/-- The last line of IDEC (R210): `IMG[s].hdr <- hdr; PIX[s] <- pix; IMG[s].VALID <- 1`. -/
def State.commitImage (s : State) (k : Slot) (hdr : Header) (pix : List Word) : State :=
  s.setImg k { valid := true, hdr := hdr, pix := Memory.ofList pix }

/-- The decode fails: the report is written, the loop ends, the slot stays as it was (R219, R304). -/
def State.abortDecode (s : State) (e : Report) (coff : Nat) : State :=
  (s.scanFailed e coff).setDec none

/-- The packet's pixels are appended; when `width*height` pixels are there the loop ends and IDEC
commits the image (R207, R210). -/
def State.producePixels (s : State) (d : Decoding) (ps : List Word) (coff : Nat) : State :=
  let pix := d.pix ++ ps
  if pix.length < d.hdr.area then (s.setCoff coff).setDec (some { d with pix := pix })
  else ((s.setCoff coff).commitImage d.slot d.hdr pix).setDec none

/-- The report of MalformedStream: the packet's count, the pixels still wanted, the offset of the
repetition byte, which the loop has just read (R207, 60_exceptions.md R291). -/
def overshoot (d : Decoding) (cnt coff : Nat) : Report :=
  { kind := .malformedStream, info0 := BitVec.ofNat 64 cnt,
    info1 := BitVec.ofNat 64 (d.hdr.area - d.pix.length), off := BitVec.ofNat 64 (coff - 1) }

/-- One packet of the decode loop after its repetition byte was read (R207): the overshoot check, then
the payload `payload coff` of the packet. -/
def packetBody (cnt : Nat) (payload : Nat → Scan (List Word)) (d : Decoding) (s : State) : State :=
  if d.hdr.area < d.pix.length + cnt then s.abortDecode (overshoot d cnt s.coff) s.coff
  else match payload s.coff with
    | .ok ps c => s.producePixels d ps c
    | .err e c => s.abortDecode e c

/-- A RAW packet in a decode in progress (R208). -/
def rawBody (n : BitVec 7) (d : Decoding) (s : State) : State :=
  packetBody (packetCount n) (rawPacket s.src d.hdr.bytesPerPixel (packetCount n)) d s

/-- A RUN packet in a decode in progress (R209). -/
def runBody (n : BitVec 7) (d : Decoding) (s : State) : State :=
  packetBody (packetCount n) (runPacket s.src d.hdr.bytesPerPixel (packetCount n)) d s

/-- RAW (R208), with COFF just past its repetition byte. Outside a decode there is no packet (R102;
log 14). -/
def execRaw (n : BitVec 7) (s : State) : Host.Outcome State Fault Refusal :=
  match s.dec with
  | none => .refused .packetOutsideDecode
  | some d => .next (rawBody n d s)

/-- RUN (R209), with COFF just past its repetition byte. Outside a decode there is no packet (R102;
log 14). -/
def execRun (n : BitVec 7) (s : State) : Host.Outcome State Fault Refusal :=
  match s.dec with
  | none => .refused .packetOutsideDecode
  | some d => .next (runBody n d s)

/-- The loop fetches a repetition byte: the byte with COFF past it, or the state after the failed
`read_u8` (R207). -/
def fetchRep (s : State) : Except State (Byte × State) :=
  match cursorU8 s.src s.coff with
  | .ok b c => .ok (b, s.setCoff c)
  | .err e c => .error (s.abortDecode e c)

/-- One iteration of the loop of `DecodeRle` (R207): fetch a repetition byte, decode it, execute the
packet. -/
def packetIteration (d : Decoding) (s : State) : State :=
  match fetchRep s with
  | .error t => t
  | .ok (b, t) => if repIsRun b then runBody (repCount b) d t else rawBody (repCount b) d t

/-- At most `fuel` iterations of the loop of `DecodeRle` (R207). Each packet produces a pixel or ends
the loop, so `width*height` are enough (70_reset_and_hazards.md R346). -/
def packetLoop : Nat → State → State
  | 0, s => s
  | fuel + 1, s =>
    match s.dec with
    | none => s
    | some d => packetLoop fuel (packetIteration d s)

/-! ## Decode and encode -/

/-- IDEC up to its packet loop (R210): the header; for image type 2 the pixels and the commit; for
image type 10 the loop variables with no pixel produced (R205). -/
def idecBegin (k : Slot) (s : State) : State :=
  let s := s.clearReport.setDec none
  match parseHeader s.src s.coff with
  | .err e c => s.scanFailed e c
  | .ok hdr c =>
    let s := (s.setCoff c).setHs hdr
    if hdr.imageType = 2#8 then
      match decodeRaw s.src hdr c with
      | .err e c' => s.scanFailed e c'
      | .ok pix c' => (s.setCoff c').commitImage k hdr pix
    else s.setDec (some { slot := k, hdr := hdr, pix := [] })

/-- The packet loop of a decode in progress, to its end. -/
def idecFinish (s : State) : State :=
  match s.dec with
  | none => s
  | some d => packetLoop d.hdr.area s

/-- IDEC s (R210): one command, run to its end. -/
def execIdec (k : Slot) (s : State) : Host.Outcome State Fault Refusal :=
  .next (idecFinish (idecBegin k s))

/-- The two bytes of a header integer, low byte first (20_memory.md R65). -/
def leBytes (v : Half) : List Byte := [v.extractLsb' 0 8, v.extractLsb' 8 8]

/-- `EncodeHeader(H)` (R213). -/
def encodeHeader (h : Header) : List Byte :=
  [0#8, 0#8, 2#8, 0#8, 0#8, 0#8, 0#8, 0#8] ++ leBytes h.xOrigin ++ leBytes h.yOrigin ++
    leBytes h.width ++ leBytes h.height ++ [32#8, Config.idescW]

/-- `Footer`, 26 bytes: two zero offsets and the signature (R215, 30_encoding.md R98). -/
def footer : List Byte :=
  [0x00#8, 0x00#8, 0x00#8, 0x00#8, 0x00#8, 0x00#8, 0x00#8, 0x00#8, 0x54#8, 0x52#8, 0x55#8, 0x45#8,
   0x56#8, 0x49#8, 0x53#8, 0x49#8, 0x4F#8, 0x4E#8, 0x2D#8, 0x58#8, 0x46#8, 0x49#8, 0x4C#8, 0x45#8,
   0x2E#8, 0x00#8]

/-- The pixel stream IENC writes: every pixel in linear-index order, 4 bytes each (R212). -/
def encodePixels (im : Image) : List Byte :=
  (im.pix.toList im.hdr.area).flatMap pixelToBytes

/-- The file IENC appends (R212, 30_encoding.md R99). -/
def encodeFile (im : Image) : List Byte :=
  encodeHeader im.hdr ++ encodePixels im ++ footer

/-- IENC s (R212). -/
def execIenc (k : Slot) (s : State) : Host.Outcome State Fault Refusal :=
  if (s.img k).valid then .next (s.clearReport.snkAppend (encodeFile (s.img k)))
  else .next (s.clearReport.raiseIllegal (cmdWord (.ienc k)) .slot)

end Sys2Proof.Machine
end

