-- ==== Sys2Proof/Machine/Raster.lean ====
section
/-! DEFINITION. The rasterizer (44_rasterizer.md): lines, triangle fill, shading, and the commands ZCLR,
LINE, TRI, FACE, RENDER. -/

namespace Sys2Proof.Machine

/-! ## Preconditions (R241) -/

/-- Check (3) of R241: a depth buffer of the target's dimensions (10_state.md R37). -/
def State.depthFits (s : State) (k : Slot) : Bool :=
  s.zb.valid && s.zb.w == (s.img k).hdr.width && s.zb.h == (s.img k).hdr.height

/-- Check (4) of R241: x and y of a vertex are finite. -/
def Vec3.finiteXY (v : Vec3) : Bool := v.x.isFinite && v.y.isFinite

/-- Check (4) of R241 for the three vertices. -/
def Triangle.finiteXY (t : Triangle) : Bool := t.v0.finiteXY && t.v1.finiteXY && t.v2.finiteXY

/-- Check (2) of R241: a bound texture slot is valid. -/
def State.textureValid (s : State) (tex : Option Slot) : Bool :=
  match tex with
  | none => true
  | some t => (s.img t).valid

/-- Checks (1) and (2) of R241, in that order: the first that fails. -/
def State.targetCheck (s : State) (k : Slot) (tex : Option Slot) : Option IllegalReason :=
  if !(s.img k).valid then some .slot
  else if !s.textureValid tex then some .texture
  else none

/-- Checks (1) to (4) of R241, in that order: the first that fails. -/
def State.fillCheck (s : State) (k : Slot) (tex : Option Slot) (zen : Bool) : Option IllegalReason :=
  match s.targetCheck k tex with
  | some r => some r
  | none =>
    if zen && !s.depthFits k then some .depth
    else if !s.argTriangle.finiteXY then some .vertex
    else none

/-! ## Lines (R244 to R246) -/

/-- A pixel memory with its dimensions, as the raster procedures see a target. -/
structure Target where
  w : Nat
  h : Nat
  deriving DecidableEq, Repr

/-- `plot(s, x, y, c)`: outside the image nothing happens (R244). -/
def plot (t : Target) (c : Word) (m : PixMem) (p : Int × Int) : PixMem :=
  if 0 ≤ p.1 ∧ p.1 < t.w ∧ 0 ≤ p.2 ∧ p.2 < t.h then m.write (linearIndex t.w p.1.toNat p.2.toNat) c
  else m

/-- The per-step error increment (R245): 0.0 if either difference is 0, else the absolute quotient of
the smaller by the larger difference; on a tie x drives. -/
def lineSlope (dx dy : Int) : F64 :=
  if dx = 0 ∨ dy = 0 then F64.zero
  else if dy.natAbs ≤ dx.natAbs then ((F64.ofInt dy).div (F64.ofInt dx)).abs
  else ((F64.ofInt dx).div (F64.ofInt dy)).abs

/-- One iteration's step of the driving coordinate `p`, the other coordinate `q` and the error (R246). -/
structure LineState where
  p : Int
  q : Int
  e : F64
  deriving DecidableEq, Repr

/-- The body of the loop after its plot: step `p`, add the increment, and on an error of at least 1.0
step `q` and subtract 1.0 (R246). -/
def lineStep (sp sq : Int) (g : F64) (l : LineState) : LineState :=
  let e := l.e.add g
  if e.ge F64.one then { p := l.p + sp, q := l.q + sq, e := e.sub F64.one }
  else { p := l.p + sp, q := l.q, e := e }

/-- The positions `n` iterations of the loop plot, each before its step (R246). -/
def lineWalk (sp sq : Int) (g : F64) : Nat → LineState → List (Int × Int)
  | 0, _ => []
  | n + 1, l => (l.p, l.q) :: lineWalk sp sq g n (lineStep sp sq g l)

/-- Every `plot` of `DrawLine`, in order: the loop runs `max(|dx|, |dy|)` times, then the endpoint
(R246). -/
def linePoints (x0 y0 x1 y1 : Nat) : List (Int × Int) :=
  let dx : Int := (x1 : Int) - x0
  let dy : Int := (y1 : Int) - y0
  let g := lineSlope dx dy
  let walk :=
    if dy.natAbs ≤ dx.natAbs then
      lineWalk (sign dx) (sign dy) g dx.natAbs { p := x0, q := y0, e := F64.zero }
    else
      (lineWalk (sign dy) (sign dx) g dy.natAbs { p := y0, q := x0, e := F64.zero }).map Prod.swap
  walk ++ [((x1 : Int), (y1 : Int))]

/-- `DrawLine(s, x0, y0, x1, y1, c)` (R245, R246). -/
def drawLine (t : Target) (x0 y0 x1 y1 : Nat) (c : Word) (m : PixMem) : PixMem :=
  (linePoints x0 y0 x1 y1).foldl (plot t c) m

/-! ## Triangle fill (R249 to R261) -/

/-- `Outline(s, v0, v1, v2)`: three segments in the configured colour, no depth (R249). -/
def outline (t : Target) (v : Triangle) (m : PixMem) : PixMem :=
  let x0 := v.v0.x.toint
  let y0 := v.v0.y.toint
  let x1 := v.v1.x.toint
  let y1 := v.v1.y.toint
  let x2 := v.v2.x.toint
  let y2 := v.v2.y.toint
  let m := drawLine t x0 y0 x1 y1 Config.outlineColor m
  let m := drawLine t x1 y1 x2 y2 Config.outlineColor m
  drawLine t x2 y2 x0 y0 Config.outlineColor m

/-- The clamped bounding box (R250). -/
structure Box where
  xmin : Nat
  xmax : Nat
  ymin : Nat
  ymax : Nat
  deriving DecidableEq, Repr

/-- R250: each edge clamped into `[0, W−1]`, `[0, H−1]`. -/
def boundingBox (t : Target) (v : Triangle) : Box :=
  let x0 := v.v0.x.toint
  let x1 := v.v1.x.toint
  let x2 := v.v2.x.toint
  let y0 := v.v0.y.toint
  let y1 := v.v1.y.toint
  let y2 := v.v2.y.toint
  { xmin := min (min (min x0 x1) x2) (t.w - 1)
    xmax := min (max (max x0 x1) x2) (t.w - 1)
    ymin := min (min (min y0 y1) y2) (t.h - 1)
    ymax := min (max (max y0 y1) y2) (t.h - 1) }

/-- The edge vectors and the determinant (R252). -/
structure Edges where
  abx : F64
  aby : F64
  acx : F64
  acy : F64
  det : F64
  deriving DecidableEq, Repr

/-- R252: `AB = v1 − v0`, `AC = v2 − v0`, `det = ABx*ACy − ACx*ABy`. -/
def edges (v : Triangle) : Edges :=
  let abx := v.v1.x.sub v.v0.x
  let aby := v.v1.y.sub v.v0.y
  let acx := v.v2.x.sub v.v0.x
  let acy := v.v2.y.sub v.v0.y
  { abx := abx, aby := aby, acx := acx, acy := acy, det := (abx.mul acy).sub (acx.mul aby) }

/-- The degenerate test: a box of zero width or height, or a zero determinant (R251). -/
def degenerate (t : Target) (v : Triangle) : Bool :=
  let b := boundingBox t v
  b.xmin == b.xmax || b.ymin == b.ymax || (edges v).det.eq F64.zero

/-- The precomputed inverse (R252). -/
structure Inverse where
  m00 : F64
  m01 : F64
  m10 : F64
  m11 : F64
  deriving DecidableEq, Repr

/-- R252: `id = 1.0 / det`, each entry one multiplication by `id`. -/
def inverse (e : Edges) : Inverse :=
  let id := F64.one.div e.det
  { m00 := e.acy.mul id, m01 := e.acx.neg.mul id, m10 := e.aby.neg.mul id, m11 := e.abx.mul id }

/-- The weights of a pixel, with `uv = u + v` (R253). -/
structure Weights where
  u : F64
  v : F64
  uv : F64
  w : F64
  deriving DecidableEq, Repr

/-- R253: the weights of the pixel (px, py), sampled at its integer coordinates. -/
def weights (v0 : Vec3) (m : Inverse) (px py : Nat) : Weights :=
  let apx := (F64.ofInt px).sub v0.x
  let apy := (F64.ofInt py).sub v0.y
  let u := (m.m00.mul apx).add (m.m01.mul apy)
  let v := (m.m10.mul apx).add (m.m11.mul apy)
  let uv := u.add v
  { u := u, v := v, uv := uv, w := F64.one.sub uv }

/-- The inside test, edges inclusive (R254). -/
def Weights.inside (k : Weights) : Bool :=
  k.u.ge F64.zero && k.v.ge F64.zero && k.uv.le F64.one

/-- A bound texture: its dimensions, its pixels, and the coordinates at the vertices. -/
structure Texture where
  w : Nat
  h : Nat
  pix : PixMem
  coords : TexCoords
  deriving DecidableEq, Repr

/-- What a fill is given beside its target: vertices, texture, depth test, flat colour (R261). -/
structure Fill where
  tri : Triangle
  tex : Option Texture
  zen : Bool
  color : Word
  deriving DecidableEq, Repr

/-- The interpolated depth (R256). -/
def fragmentDepth (v : Triangle) (k : Weights) : F64 :=
  interp k.w k.u k.v v.v0.z v.v1.z v.v2.z

/-- The texel of a fragment, or none where it is dropped (R258, R259). -/
def texel (t : Texture) (k : Weights) : Option Word :=
  let tu := interp k.w k.u k.v t.coords.t0.x t.coords.t1.x t.coords.t2.x
  let tv := interp k.w k.u k.v t.coords.t0.y t.coords.t1.y t.coords.t2.y
  let fx := tu.mul (F64.ofInt t.w)
  let fy := tv.mul (F64.ofInt t.h)
  if fx.isFinite && fy.isFinite then
    let tx := fx.nearest
    let ty := fy.nearest
    if tx < 0 ∨ tx ≥ t.w ∨ ty < 0 ∨ ty ≥ t.h then none
    else some (t.pix.read (linearIndex t.w tx.toNat ty.toNat))
  else none

/-- The colour of an accepted fragment: the texel, or the flat colour without a texture (R260). -/
def fragmentColor (f : Fill) (k : Weights) : Option Word :=
  match f.tex with
  | none => some f.color
  | some t => texel t k

/-- The two memories a fill writes. -/
structure Canvas where
  pix : PixMem
  depth : DepthMem
  deriving DecidableEq, Repr

/-- The depth test against the stored depth: strictly greater (R257); no test without `zen`. -/
def depthPasses (f : Fill) (k : Weights) (stored : Dword) : Bool :=
  !f.zen || (fragmentDepth f.tri k).gt (F64.ofBits stored)

/-- The colour that pixel (px, py) receives when the stored depth is `stored`, or none where the pixel
is outside, is rejected by the depth test, or is dropped (R253 to R259). -/
def fragment (f : Fill) (m : Inverse) (stored : Dword) (px py : Nat) : Option Word :=
  let k := weights f.tri.v0 m px py
  if k.inside && depthPasses f k stored then fragmentColor f k else none

/-- One pixel of the scan (R261): colour, then, with `zen`, depth (R260). -/
def fillPixel (t : Target) (f : Fill) (m : Inverse) (c : Canvas) (p : Nat × Nat) : Canvas :=
  let i := linearIndex t.w p.1 p.2
  match fragment f m (c.depth.read i) p.1 p.2 with
  | none => c
  | some col =>
    { pix := c.pix.write i col
      depth := if f.zen then c.depth.write i (fragmentDepth f.tri (weights f.tri.v0 m p.1 p.2)).toBits
               else c.depth }

/-- The pixels of a box, rows from ymin upward and columns from xmin upward (R255). -/
def boxPixels (b : Box) : List (Nat × Nat) :=
  (List.range' b.ymin (b.ymax + 1 - b.ymin)).flatMap fun py =>
    (List.range' b.xmin (b.xmax + 1 - b.xmin)).map fun px => (px, py)

/-- `FillTriangle` (R261). -/
def fillTriangle (t : Target) (f : Fill) (c : Canvas) : Canvas :=
  if degenerate t f.tri then { c with pix := outline t f.tri c.pix }
  else (boxPixels (boundingBox t f.tri)).foldl (fillPixel t f (inverse (edges f.tri))) c

/-! ## Shading and culling (R264 to R267) -/

/-- The face normal before normalization: `cross(v1 − v0, v2 − v0)` (R264). -/
def faceNormal (v : Triangle) : Vec3 := cross (sub3 v.v1 v.v0) (sub3 v.v2 v.v0)

/-- The intensity, or none where the length is zero or NaN (R265). -/
def intensity (v : Triangle) : Option F64 :=
  let n := faceNormal v
  let l := len3 n
  if l.gt F64.zero then some (n.z.div l) else none

/-- 255.0 -/
def f255 : F64 := F64.ofInt 255

/-- The shading colour, or none where the face is culled (R266). -/
def shade (v : Triangle) : Option Word :=
  match intensity v with
  | none => none
  | some i => if i.gt F64.zero then some (grey (sat8 (i.mul f255).nearest)) else none

/-- `ShadeAndFill(s, v0, v1, v2, tc, zen)` (R267): a culled face draws nothing. -/
def shadeAndFill (t : Target) (v : Triangle) (tex : Option Texture) (zen : Bool) (c : Canvas) : Canvas :=
  match shade v with
  | none => c
  | some color => fillTriangle t { tri := v, tex := tex, zen := zen, color := color } c

/-! ## The commands over a slot -/

/-- The target of slot `k`: `W`, `H` (R241). -/
def State.target (s : State) (k : Slot) : Target := { w := s.imgW k, h := s.imgH k }

/-- The texture of the bound slot, with the given coordinates (R262, R270). -/
def State.texture (s : State) (tex : Option Slot) (tc : TexCoords) : Option Texture :=
  tex.map fun t => { w := s.imgW t, h := s.imgH t, pix := (s.img t).pix, coords := tc }

/-- The memories a raster command on slot `k` starts from. -/
def State.canvas (s : State) (k : Slot) : Canvas := { pix := (s.img k).pix, depth := s.zb.d }

/-- The memories a raster command on slot `k` leaves. -/
def State.setCanvas (s : State) (k : Slot) (c : Canvas) : State :=
  (s.setPix k c.pix).setZb { s.zb with d := c.depth }

/-- ZCLR s (R240). -/
def execZclr (k : Slot) (s : State) : Host.Outcome State Fault Refusal :=
  if (s.img k).valid then
    .next (s.clearReport.setZb (DepthBuffer.fresh (s.img k).hdr.width (s.img k).hdr.height))
  else .next (s.clearReport.raiseIllegal (cmdWord (.zclr k)) .slot)

/-- LINE s (R247). -/
def execLine (k : Slot) (s : State) : Host.Outcome State Fault Refusal :=
  if (s.img k).valid then
    .next (s.clearReport.setPix k
      (drawLine (s.target k) (s.argCoord 0) (s.argCoord 1) (s.argCoord 2) (s.argCoord 3) (s.argColor 4)
        (s.img k).pix))
  else .next (s.clearReport.raiseIllegal (cmdWord (.line k)) .slot)

/-- TRI s, tex, zen (R262): no culling, no shading; the flat colour is A[15]. -/
def execTri (k : Slot) (tex : Option Slot) (zen : Bool) (s : State) : Host.Outcome State Fault Refusal :=
  match s.fillCheck k tex zen with
  | some r => .next (s.clearReport.raiseIllegal (cmdWord (.tri k tex zen)) r)
  | none =>
    .next (s.clearReport.setCanvas k
      (fillTriangle (s.target k)
        { tri := s.argTriangle, tex := s.texture tex s.argTexCoords, zen := zen, color := s.argColor 15 }
        (s.canvas k)))

/-- FACE s, tex, zen (R268): A[15] is never read. -/
def execFace (k : Slot) (tex : Option Slot) (zen : Bool) (s : State) : Host.Outcome State Fault Refusal :=
  match s.fillCheck k tex zen with
  | some r => .next (s.clearReport.raiseIllegal (cmdWord (.face k tex zen)) r)
  | none =>
    .next (s.clearReport.setCanvas k
      (shadeAndFill (s.target k) s.argTriangle (s.texture tex s.argTexCoords) zen (s.canvas k)))

/-! ## The render pass (R270) -/

/-- A vertex of the view as a point. -/
def MeshVertex.point (v : MeshVertex) : Vec3 :=
  { x := F64.ofBits v.x, y := F64.ofBits v.y, z := F64.ofBits v.z }

/-- A texture point of the view as a point. -/
def MeshTexPoint.point (v : MeshTexPoint) : Vec2 := { x := F64.ofBits v.x, y := F64.ofBits v.y }

/-- A face of the view resolved to its vertices and, with a texture bound, its texture points. -/
structure MeshTriangle where
  tri : Triangle
  coords : Option TexCoords
  deriving DecidableEq, Repr

/-- `get_vertex(i)` under the preconditions of 20_memory.md R70: the index is below the count and the
point's x and y are finite (44_rasterizer.md R270, D30, D33; log 12). -/
def Mesh.vertex (m : Mesh) (i : Nat) : Option Vec3 :=
  match m.vertices[i]? with
  | none => none
  | some v => if v.point.finiteXY then some v.point else none

/-- `get_texture(i)`, for an index that is a valid argument (20_memory.md R70). -/
def Mesh.texPoint (m : Mesh) (i : Nat) : Option Vec2 := m.texPoints[i]?.map MeshTexPoint.point

/-- The vertices of a face. -/
def Mesh.triangle (m : Mesh) (f : MeshFace) : Option Triangle :=
  match m.vertex f.v0, m.vertex f.v1, m.vertex f.v2 with
  | some v0, some v1, some v2 => some { v0 := v0, v1 := v1, v2 := v2 }
  | _, _, _ => none

/-- The texture points of a face. -/
def Mesh.texCoords (m : Mesh) (f : MeshFace) : Option TexCoords :=
  match m.texPoint f.t0, m.texPoint f.t1, m.texPoint f.t2 with
  | some t0, some t1, some t2 => some { t0 := t0, t1 := t1, t2 := t2 }
  | _, _, _ => none

/-- A face as RENDER reads it; none where the view breaks a precondition of 20_memory.md R70. -/
def Mesh.resolveFace (m : Mesh) (tex : Bool) (f : MeshFace) : Option MeshTriangle :=
  match m.triangle f with
  | none => none
  | some t =>
    if tex then (m.texCoords f).map fun tc => { tri := t, coords := some tc }
    else some { tri := t, coords := none }

/-- Every face RENDER reads, in face order; none where the view breaks a precondition. -/
def Mesh.resolve (m : Mesh) (tex : Bool) : List MeshFace → Option (List MeshTriangle)
  | [] => some []
  | f :: fs =>
    match m.resolveFace tex f, m.resolve tex fs with
    | some t, some ts => some (t :: ts)
    | _, _ => none

/-- The texture of a resolved face. -/
def State.meshTexture (s : State) (tex : Option Slot) (t : MeshTriangle) : Option Texture :=
  t.coords.bind fun tc => s.texture tex tc

/-- The pass over the faces, in order, always with the depth test (R270). -/
def renderFaces (s : State) (k : Slot) (tex : Option Slot) (ts : List MeshTriangle) (c : Canvas) : Canvas :=
  ts.foldl (fun c t => shadeAndFill (s.target k) t.tri (s.meshTexture tex t) true c) c

/-- RENDER s, tex (R270): a fresh depth buffer at the start, discarded at the end. -/
def execRender (k : Slot) (tex : Option Slot) (s : State) : Host.Outcome State Fault Refusal :=
  match s.targetCheck k tex with
  | some r => .next (s.clearReport.raiseIllegal (cmdWord (.render k tex)) r)
  | none =>
    match s.mesh.resolve tex.isSome s.mesh.faces with
    | none => .refused .meshPrecondition
    | some ts =>
      let c := renderFaces s k tex ts { pix := (s.img k).pix, depth := Memory.empty }
      .next ((s.clearReport.setPix k c.pix).setZb DepthBuffer.invalid)

end Sys2Proof.Machine
end

