-- ==== Sys2Proof/Machine/System.lean ====
section
/-! DEFINITION. The system command NOP (60_exceptions.md R312, R313). -/

namespace Sys2Proof.Machine

/-- NOP (R312): nothing after step (1) of R300; it clears the error report. -/
def execNop (s : State) : Host.Outcome State Fault Refusal :=
  .next s.clearReport

end Sys2Proof.Machine
end

