-- ==== Sys2Proof/Machine/Dispatch.lean ====
section
/-! DEFINITION. exec: one arm per instruction, each one direct call of its meaning. -/

namespace Sys2Proof.Machine

def exec (i : Instr) (s : State) : Host.Outcome State Fault Refusal :=
  match i with
  | .nop => Sys2Proof.Machine.execNop s
  | .pack => Sys2Proof.Machine.execPack s
  | .unpack => Sys2Proof.Machine.execUnpack s
  | .from24 => Sys2Proof.Machine.execFrom24 s
  | .crd n => Sys2Proof.Machine.execCrd n s
  | .cpk n => Sys2Proof.Machine.execCpk n s
  | .csk => Sys2Proof.Machine.execCsk s
  | .cac n => Sys2Proof.Machine.execCac n s
  | .inew k => Sys2Proof.Machine.execInew k s
  | .iget k => Sys2Proof.Machine.execIget k s
  | .iset k => Sys2Proof.Machine.execIset k s
  | .ihdr => Sys2Proof.Machine.execIhdr s
  | .idec k => Sys2Proof.Machine.execIdec k s
  | .ienc k => Sys2Proof.Machine.execIenc k s
  | .zclr k => Sys2Proof.Machine.execZclr k s
  | .line k => Sys2Proof.Machine.execLine k s
  | .tri k tex zen => Sys2Proof.Machine.execTri k tex zen s
  | .face k tex zen => Sys2Proof.Machine.execFace k tex zen s
  | .render k tex => Sys2Proof.Machine.execRender k tex s
  | .raw n => Sys2Proof.Machine.execRaw n s
  | .run n => Sys2Proof.Machine.execRun n s

end Sys2Proof.Machine
end

