-- ==== Sys2Proof/Machine/HostPort.lean ====
section
/-! DEFINITION. The register map (10_state.md R28) and the host actions other than a command
(70_reset_and_hazards.md R339). -/

namespace Sys2Proof.Machine

/-- A single bit as a register value. -/
def bitReg (b : Bool) : Dword := (BitVec.ofBool b).setWidth 64

/-- Header register k = 0 to 10 with its valid bit (10_state.md R32), zero-extended (R28). -/
def headerReg (valid : Bool) (h : Header) : Nat → Option Dword
  | 0 => some (bitReg valid)
  | 1 => some (h.idLength.setWidth 64)
  | 2 => some (h.colorMapType.setWidth 64)
  | 3 => some (h.imageType.setWidth 64)
  | 4 => some (h.colorMapSpec.setWidth 64)
  | 5 => some (h.xOrigin.setWidth 64)
  | 6 => some (h.yOrigin.setWidth 64)
  | 7 => some (h.width.setWidth 64)
  | 8 => some (h.height.setWidth 64)
  | 9 => some (h.bitsPerPixel.setWidth 64)
  | 10 => some (h.imageDescriptor.setWidth 64)
  | _ => none

/-- What the host reads at a register number (R28): none for a number that is not in the map and for
CMD, which is write-only (R29). -/
def State.readReg (s : State) (num : Nat) : Option Dword :=
  if num = 0x01 then some (s.err.setWidth 64)
  else if num = 0x02 then some s.einfo0
  else if num = 0x03 then some s.einfo1
  else if num = 0x04 then some s.eoff
  else if num = 0x05 then some (BitVec.ofNat 64 s.coff)
  else if num = 0x06 then some (BitVec.ofNat 64 s.srclen)
  else if num = 0x07 then some (BitVec.ofNat 64 s.snklen)
  else if num = 0x08 then some (bitReg s.zb.valid)
  else if num = 0x09 then some (s.zb.w.setWidth 64)
  else if num = 0x0A then some (s.zb.h.setWidth 64)
  else if 0x20 ≤ num ∧ num < 0x30 then headerReg s.img0.valid s.img0.hdr (num - 0x20)
  else if 0x30 ≤ num ∧ num < 0x40 then headerReg s.img1.valid s.img1.hdr (num - 0x30)
  else if 0x40 ≤ num ∧ num < 0x50 then headerReg s.hs.valid s.hs.hdr (num - 0x40)
  else if 0x50 ≤ num ∧ num < 0x60 then some (s.areg (Fin.ofNat 16 (num - 0x50)))
  else if 0x60 ≤ num ∧ num < 0x64 then some (s.r.get (Fin.ofNat 4 (num - 0x60)))
  else none

/-- Load `SRC` with a byte sequence; COFF becomes 0 (R339). -/
def State.loadSrc (s : State) (b : List Byte) : State := { s with src := b, coff := 0 }

/-- Empty `SNK` (R339). -/
def State.emptySnk (s : State) : State := { s with snk := [] }

/-- Supply or change the MESH view (R339). -/
def State.setMesh (s : State) (m : Mesh) : State := { s with mesh := m }

/-- The reset event (R330): every piece of TRB's state has its reset value; the host's own, its queue
and the view it supplies, stay (log 18). -/
def State.resetEvent (s : State) : State := { State.reset with mesh := s.mesh, host := s.host }

/-- Write a numbered register that holds a value: the A registers are the only ones (R28, R339); any
other number is refused (U12; log 13). -/
def hostWriteReg (num : Nat) (v : Dword) (s : State) : Host.Outcome State Fault Refusal :=
  if 0x50 ≤ num ∧ num < 0x60 then .next (s.setA (Fin.ofNat 16 (num - 0x50)) v)
  else .refused (.registerNumber num)

/-- Read a numbered register: no effect on TRB; a number that cannot be read is refused (U12; log 13). -/
def hostReadReg (num : Nat) (s : State) : Host.Outcome State Fault Refusal :=
  match s.readReg num with
  | some _ => .next s
  | none => .refused (.registerNumber num)

/-- The command word of a host action that writes CMD: the action `command`, or a write of register
number 0x00, of which CMD takes the low 32 bits (R28, R29; log 13). -/
def HostAction.cmdWrite : HostAction → Option Word
  | .command w => some w
  | .writeReg num v => if num = 0x00 then some (v.extractLsb' 0 32) else none
  | .loadSrc _ => none
  | .readReg _ => none
  | .readSnk => none
  | .emptySnk => none
  | .readPix _ => none
  | .readDepth => none
  | .setMesh _ => none
  | .reset => none

/-- The effect of a host action that does not write CMD (R339). Reading `SNK`, `PIX` or `ZB.d` has
none. A write of CMD runs a command, which `step` does; here it is listed to have every action. -/
def hostEffect (act : HostAction) (s : State) : Host.Outcome State Fault Refusal :=
  match act with
  | .loadSrc b => .next (s.loadSrc b)
  | .command _ => .next s
  | .writeReg num v => hostWriteReg num v s
  | .readReg num => hostReadReg num s
  | .readSnk => .next s
  | .emptySnk => .next s.emptySnk
  | .readPix _ => .next s
  | .readDepth => .next s
  | .setMesh m => .next (s.setMesh m)
  | .reset => .next s.resetEvent

end Sys2Proof.Machine
end

