-- ==== Sys2Proof/Machine/Step.lean ====
section
/-! DEFINITION. One step of the machine. Between commands the step performs the next host action; a
write of CMD runs one whole command (00_scope.md R11). While a run-length decode is in progress the
step executes one packet (43_codec.md R207). With no action left the block is idle
(70_reset_and_hazards.md R346). -/

namespace Sys2Proof.Machine

/-- The write of a word to CMD (10_state.md R29): the command it stands for, or the report of an illegal
word (30_encoding.md R104). -/
def runCommand (w : Word) (s : State) : Host.Outcome State Fault Refusal :=
  match decode (.cmd32 w) with
  | .ok i => exec i s
  | .error _ => .next (s.illegalWord w)

/-- One iteration of the packet loop, through `exec`: fetch the repetition byte, decode it, execute the
packet (43_codec.md R207). -/
def stepPacket (s : State) : Host.Outcome State Fault Refusal :=
  match fetchRep s with
  | .error t => .next t
  | .ok (b, t) => exec (decodeRep b) t

/-- The first host action leaves the queue. -/
def State.popHost (s : State) (rest : List HostAction) : State := { s with host := rest }

/-- The next host action (70_reset_and_hazards.md R339). -/
def stepHost (act : HostAction) (s : State) : Host.Outcome State Fault Refusal :=
  match act.cmdWrite with
  | some w => runCommand w s
  | none => hostEffect act s

/-- One step. -/
def step (s : State) : Host.Outcome State Fault Refusal :=
  match s.dec with
  | some _ => stepPacket s
  | none =>
    match s.host with
    | [] => .next s
    | act :: rest => stepHost act (s.popHost rest)

/-- The decode in progress in which `withFetchWord` places a packet: a 128 by 1 image at depth 32 with
no pixel produced, so that a packet of any count fits (log 5). -/
def packetContext : Decoding :=
  { slot := .s0
    hdr := { idLength := 0, colorMapType := 0, imageType := 10, colorMapSpec := 0, xOrigin := 0,
             yOrigin := 0, width := 128, height := 1, bitsPerPixel := 32, imageDescriptor := 0 }
    pix := [] }

/-- `s` with an opcode-table word placed where `step` fetches its next instruction: a command word is
the next thing the host writes; a repetition byte stands in SRC at COFF, followed by 512 zero bytes (the
longest packet's payload), in a decode in progress (logs 4 and 5). -/
def State.withFetchWord (s : State) (nbits w : Nat) : State :=
  if nbits = 8 then
    { s with
      src := s.src.take s.coff ++ BitVec.ofNat 8 w :: List.replicate 512 0#8
      coff := (s.src.take s.coff).length
      dec := some packetContext }
  else
    { s with dec := none, host := .command (BitVec.ofNat 32 w) :: s.host }

end Sys2Proof.Machine
end

