-- ==== Sys2Proof/Safety.lean ====
section
/-! DEFINITION. The terms the claims use: what the spec promises of every state between steps, and the
spec's own tables and formats written a second time, apart from the model (the opcode table, the error
report, the header table of ParseHeader, the packet stream, the line loop, the fill of a triangle, the
MESH preconditions, rounding to binary64). -/

namespace Sys2Proof.Machine

/-- The legal values of a stored header (10_state.md R32). -/
abbrev Header.legal (h : Header) : Prop :=
  h.idLength = 0 ∧ h.colorMapType = 0 ∧ (h.imageType = 2#8 ∨ h.imageType = 10#8) ∧
    h.colorMapSpec = 0 ∧ h.width ≠ 0 ∧ h.height ≠ 0 ∧ (h.bitsPerPixel = 24#8 ∨ h.bitsPerPixel = 32#8)

/-- Every listed element lies inside a space of `len` elements (20_memory.md R74). -/
abbrev Memory.within {n : Nat} {fill : BitVec n} (m : Memory n fill) (len : Nat) : Prop :=
  ∀ c ∈ m.cells, c.1 < len

/-- An image slot: a valid one has a legal header, an invalid one reads 0 and has no pixels (R32, R33);
its pixel memory is in canonical form and inside `width * height` (R34). -/
abbrev Image.ok (im : Image) : Prop :=
  (im.valid = true → im.hdr.legal) ∧ (im.valid = false → im = Image.invalid) ∧
    im.pix.wf ∧ im.pix.within im.hdr.area

/-- HS holds a legal header when valid and reads 0 otherwise (R32, R35, R40). -/
abbrev Staging.ok (h : Staging) : Prop :=
  (h.valid = true → h.hdr.legal) ∧ (h.valid = false → h = Staging.invalid)

/-- The depth buffer: when invalid its dimensions read 0 and it has no element (R37); its memory is in
canonical form and inside `ZW * ZH` (R36). -/
abbrev DepthBuffer.ok (z : DepthBuffer) : Prop :=
  (z.valid = false → z = DepthBuffer.invalid) ∧ z.d.wf ∧ z.d.within (z.w.toNat * z.h.toNat)

/-- A decode in progress: a legal run-length header and pixels still to be produced (43_codec.md R207). -/
abbrev Decoding.ok (d : Decoding) : Prop :=
  d.hdr.legal ∧ d.hdr.imageType = 10#8 ∧ d.pix.length < d.hdr.area

/-- `ERR` holds one of its legal values (R30). -/
abbrev State.errLegal (s : State) : Prop :=
  s.err ∈ [0#8, 1#8, 2#8, 3#8, 4#8, 6#8, 7#8]

/-- The invariant of 10_state.md: R24 (`0 <= COFF <= SRCLEN`), R30, R32 to R37, and the loop invariant
of a decode in progress. -/
abbrev State.Inv (s : State) : Prop :=
  s.coff ≤ s.srclen ∧ s.errLegal ∧ s.img0.ok ∧ s.img1.ok ∧ s.hs.ok ∧ s.zb.ok ∧ ∀ d ∈ s.dec, d.ok

/-- Between commands: no decode is in progress (10_state.md R41). -/
abbrev State.atBoundary (s : State) : Prop := s.dec = none

/-! ## The report a command leaves (60_exceptions.md R291, R300) -/

/-- `s` with the report of a command that ended without error. -/
abbrev State.okFrom (s : State) : State := { s with err := 0#8, einfo0 := 0#64, einfo1 := 0#64, eoff := 0#64 }

/-- `s` with the report of `raise` (00_scope.md R16). -/
abbrev State.errFrom (s : State) (code : Byte) (i0 i1 off : Dword) : State :=
  { s with err := code, einfo0 := i0, einfo1 := i1, eoff := off }

/-- The number of a slot. -/
def slotNum : Slot → Nat
  | .s0 => 0
  | .s1 => 1

/-- `op | (s << 8)`, the word of a command that uses `s` alone, as a report shows it (30_encoding.md R100). -/
def slotWord (op : Nat) (k : Slot) : Dword := BitVec.ofNat 64 (op + 256 * slotNum k)

/-- `op | (s << 8) | (t << 9) | (tex << 10) | (zen << 11)`, the word of a command that uses these fields;
without a texture `t` is 0 (30_encoding.md R100, 44_rasterizer.md R262, R268, R270). -/
def fillWord (op : Nat) (k : Slot) (tex : Option Slot) (zen : Bool) : Word :=
  BitVec.ofNat 32 (op + 256 * slotNum k +
    (match tex with | none => 0 | some t => 512 * slotNum t + 1024) + 2048 * zen.toNat)

/-! ## The opcode table (30_encoding.md R101, R110) -/

/-- The conditions of a table row beside its mask. -/
inductive RowCondition where
  | free
  /-- `n <= 8` -/
  | count
  /-- `tex == 0 -> t == 0` and `tex == 1 -> t != s` -/
  | texture
  deriving DecidableEq, Repr

/-- A CMD32 row of opcode_table.json. -/
structure CommandRow where
  mnemonic : String
  pattern : Word
  mask : Word
  condition : RowCondition
  deriving DecidableEq, Repr

/-- The CMD32 rows of opcode_table.json. -/
def commandRows : List CommandRow :=
  [ ⟨"NOP", 0x00000000#32, 0xFFFFFFFF#32, .free⟩,
    ⟨"PACK", 0x00000001#32, 0xFFFFFFFF#32, .free⟩,
    ⟨"UNPACK", 0x00000002#32, 0xFFFFFFFF#32, .free⟩,
    ⟨"FROM24", 0x00000003#32, 0xFFFFFFFF#32, .free⟩,
    ⟨"CRD", 0x00000010#32, 0xFFF0FFFF#32, .count⟩,
    ⟨"CPK", 0x00000011#32, 0xFFF0FFFF#32, .count⟩,
    ⟨"CSK", 0x00000012#32, 0xFFFFFFFF#32, .free⟩,
    ⟨"CAC", 0x00000013#32, 0xFFF0FFFF#32, .count⟩,
    ⟨"INEW", 0x00000020#32, 0xFFFFFEFF#32, .free⟩,
    ⟨"IGET", 0x00000021#32, 0xFFFFFEFF#32, .free⟩,
    ⟨"ISET", 0x00000022#32, 0xFFFFFEFF#32, .free⟩,
    ⟨"IHDR", 0x00000023#32, 0xFFFFFFFF#32, .free⟩,
    ⟨"IDEC", 0x00000024#32, 0xFFFFFEFF#32, .free⟩,
    ⟨"IENC", 0x00000025#32, 0xFFFFFEFF#32, .free⟩,
    ⟨"ZCLR", 0x00000030#32, 0xFFFFFEFF#32, .free⟩,
    ⟨"LINE", 0x00000031#32, 0xFFFFFEFF#32, .free⟩,
    ⟨"TRI", 0x00000032#32, 0xFFFFF0FF#32, .texture⟩,
    ⟨"FACE", 0x00000033#32, 0xFFFFF0FF#32, .texture⟩,
    ⟨"RENDER", 0x00000034#32, 0xFFFFF8FF#32, .texture⟩ ]

/-- The condition of a row holds of a word. -/
def RowCondition.holds (c : RowCondition) (w : Word) : Bool :=
  match c with
  | .free => true
  | .count => (w.extractLsb' 16 4).toNat ≤ 8
  | .texture => if w.getLsbD 10 then w.getLsbD 9 != w.getLsbD 8 else !w.getLsbD 9

/-- "a word `c` selects the row iff `c & mask == match` and the row's `constraints` hold" (R110). -/
def CommandRow.selects (r : CommandRow) (w : Word) : Bool :=
  w &&& r.mask == r.pattern && r.condition.holds w

/-- The mnemonic of an instruction in opcode_table.json. -/
def mnemonicOf : Instr → String
  | .nop => "NOP"
  | .pack => "PACK"
  | .unpack => "UNPACK"
  | .from24 => "FROM24"
  | .crd _ => "CRD"
  | .cpk _ => "CPK"
  | .csk => "CSK"
  | .cac _ => "CAC"
  | .inew _ => "INEW"
  | .iget _ => "IGET"
  | .iset _ => "ISET"
  | .ihdr => "IHDR"
  | .idec _ => "IDEC"
  | .ienc _ => "IENC"
  | .zclr _ => "ZCLR"
  | .line _ => "LINE"
  | .tri _ _ _ => "TRI"
  | .face _ _ _ => "FACE"
  | .render _ _ => "RENDER"
  | .raw _ => "RAW"
  | .run _ => "RUN"

/-- The word fields a command may have non-zero (R101, column "uses"). -/
structure FieldUse where
  s : Bool
  t : Bool
  tex : Bool
  zen : Bool
  n : Bool
  deriving DecidableEq, Repr

/-- Column "uses" of R101; none for a number that is no operation code. -/
def fieldUse (op : Nat) : Option FieldUse :=
  if op ∈ [0x00, 0x01, 0x02, 0x03, 0x12, 0x23] then some ⟨false, false, false, false, false⟩
  else if op ∈ [0x10, 0x11, 0x13] then some ⟨false, false, false, false, true⟩
  else if op ∈ [0x20, 0x21, 0x22, 0x24, 0x25, 0x30, 0x31] then some ⟨true, false, false, false, false⟩
  else if op ∈ [0x32, 0x33] then some ⟨true, true, true, true, false⟩
  else if op = 0x34 then some ⟨true, true, true, false, false⟩
  else none

/-- The conditions under which a command word is illegal, as R104 lists them. -/
def wordIllegal (w : Word) : Prop :=
  match fieldUse (w.extractLsb' 0 8).toNat with
  | none => True
  | some u =>
    w.extractLsb' 20 12 ≠ 0#12 ∨ w.extractLsb' 12 4 ≠ 0#4 ∨
      (u.s = false ∧ w.getLsbD 8 = true) ∨ (u.t = false ∧ w.getLsbD 9 = true) ∨
      (u.tex = false ∧ w.getLsbD 10 = true) ∨ (u.zen = false ∧ w.getLsbD 11 = true) ∨
      (u.n = false ∧ w.extractLsb' 16 4 ≠ 0#4) ∨ (u.n = true ∧ 8 < (w.extractLsb' 16 4).toNat) ∨
      (u.tex = true ∧ w.getLsbD 10 = false ∧ w.getLsbD 9 = true) ∨
      (u.tex = true ∧ w.getLsbD 10 = true ∧ w.getLsbD 9 = w.getLsbD 8)

/-! ## The header (43_codec.md R195, R199) -/

/-- The header whose 18 bytes stand at offset `o` of `src` (10_state.md R32, 20_memory.md R65). -/
def headerAt (src : List Byte) (o : Nat) : Header :=
  { idLength := 0, colorMapType := 0, imageType := src.getD (o + 2) 0#8, colorMapSpec := 0
    xOrigin := src.getD (o + 9) 0#8 ++ src.getD (o + 8) 0#8
    yOrigin := src.getD (o + 11) 0#8 ++ src.getD (o + 10) 0#8
    width := src.getD (o + 13) 0#8 ++ src.getD (o + 12) 0#8
    height := src.getD (o + 15) 0#8 ++ src.getD (o + 14) 0#8
    bitsPerPixel := src.getD (o + 16) 0#8
    imageDescriptor := src.getD (o + 17) 0#8 }

/-- What the decode asks of a header field. -/
inductive FieldCheck where
  | zero
  | nonZero
  | oneOf (a b : Nat)
  | any
  deriving DecidableEq, Repr

/-- A header field: its offset, its number of bytes, its check. -/
structure HeaderField where
  offset : Nat
  size : Nat
  check : FieldCheck
  deriving DecidableEq, Repr

/-- The fields in offset order, with the checks of R195. -/
def headerFields : List HeaderField :=
  [⟨0, 1, .zero⟩, ⟨1, 1, .zero⟩, ⟨2, 1, .oneOf 2 10⟩, ⟨3, 5, .zero⟩, ⟨8, 2, .any⟩, ⟨10, 2, .any⟩,
   ⟨12, 2, .nonZero⟩, ⟨14, 2, .nonZero⟩, ⟨16, 1, .oneOf 24 32⟩, ⟨17, 1, .any⟩]

/-- The `size` bytes from offset `p` on as one number, low byte first (20_memory.md R65, R68). -/
def leValue (src : List Byte) (p : Nat) : Nat → Nat
  | 0 => 0
  | size + 1 => (src.getD p 0#8).toNat + 256 * leValue src (p + 1) size

/-- A row of the table of R199: the report and the COFF a failing field leaves. -/
structure FieldFailure where
  code : Byte
  info0 : Dword
  info1 : Dword
  off : Dword
  coff : Nat
  deriving DecidableEq, Repr

/-- The failure of one field of a header that starts at `o`, if it fails (the table of R199). -/
def HeaderField.failure (f : HeaderField) (src : List Byte) (o : Nat) : Option FieldFailure :=
  let p := o + f.offset
  let v := leValue src p f.size
  if src.length < p + f.size then
    some ⟨1#8, BitVec.ofNat 64 f.size, BitVec.ofNat 64 (src.length - p), BitVec.ofNat 64 p, p⟩
  else match f.check with
    | .zero => if v = 0 then none else some ⟨2#8, 0#64, BitVec.ofNat 64 v, BitVec.ofNat 64 p, p⟩
    | .nonZero =>
      if v ≠ 0 then none
      else some ⟨3#8, BitVec.ofNat 64 f.offset, 0#64, BitVec.ofNat 64 p, p + f.size⟩
    | .oneOf a b =>
      if v = a ∨ v = b then none
      else some ⟨3#8, BitVec.ofNat 64 f.offset, BitVec.ofNat 64 v, BitVec.ofNat 64 p, p + f.size⟩
    | .any => none

/-- The failure of the header that starts at `o`: that of its first failing field (R195, R302). -/
def headerFailure (src : List Byte) (o : Nat) : Option FieldFailure :=
  headerFields.findSome? fun f => f.failure src o

/-! ## The pixel stream (30_encoding.md R94 to R97) -/

/-- The pixel whose `k` bytes stand at offset `o`: file order B, G, R and, where `k` is 4, A. -/
def pixelAt (src : List Byte) (o k : Nat) : Word :=
  src.getD (o + 2) 0#8 ++ src.getD (o + 1) 0#8 ++ src.getD o 0#8 ++
    (if k = 4 then src.getD (o + 3) 0#8 else 255#8)

/-- The count of a packet, from its repetition byte (R96). -/
def repPixels (b : Byte) : Nat := b.toNat % 128 + 1

/-- From offset `o` on, `src` holds packets that spell the pixels `ps` and end at offset `c` (R97). -/
inductive Packets (src : List Byte) (k : Nat) : Nat → List Word → Nat → Prop
  | done (o : Nat) : Packets src k o [] o
  | raw (o : Nat) (b : Byte) (ps : List Word) (c : Nat) (hb : src[o]? = some b)
      (h7 : b.getLsbD 7 = false) (hlen : o + 1 + repPixels b * k ≤ src.length)
      (h : Packets src k (o + 1 + repPixels b * k) ps c) :
      Packets src k o ((List.range (repPixels b)).map (fun j => pixelAt src (o + 1 + j * k) k) ++ ps) c
  | run (o : Nat) (b : Byte) (ps : List Word) (c : Nat) (hb : src[o]? = some b)
      (h7 : b.getLsbD 7 = true) (hlen : o + 1 + k ≤ src.length)
      (h : Packets src k (o + 1 + k) ps c) :
      Packets src k o (List.replicate (repPixels b) (pixelAt src (o + 1) k) ++ ps) c

/-- A decode in progress after it produced the pixels `ps` and reached offset `c`: it goes on, or, with
every pixel there, the slot is written and the decode is over (43_codec.md R207, R210). -/
def State.produced (s : State) (d : Decoding) (ps : List Word) (c : Nat) : State :=
  if (d.pix ++ ps).length < d.hdr.width.toNat * d.hdr.height.toNat then
    { s with coff := c, dec := some { d with pix := d.pix ++ ps } }
  else
    { s with coff := c, dec := none }.setImg d.slot
      { valid := true, hdr := d.hdr, pix := Memory.ofList (d.pix ++ ps) }

/-! ## Raster commands (44_rasterizer.md) -/

/-- The exponent field of an f64 is not all ones: neither NaN nor an infinity (40_numerics_geometry.md
R136, R138). -/
abbrev finiteBits (b : Dword) : Prop := b.extractLsb' 52 11 ≠ 0x7FF#11

/-- The operands of R241's checks: target, texture slot, depth test, vertices in A. -/
structure RasterOperands where
  target : Slot
  tex : Option Slot
  zen : Bool
  vertices : Bool
  deriving DecidableEq, Repr

/-- The raster commands with the checks R241 makes for each. -/
def rasterOperands : Instr → Option RasterOperands
  | .zclr k => some ⟨k, none, false, false⟩
  | .line k => some ⟨k, none, false, false⟩
  | .tri k tex zen => some ⟨k, tex, zen, true⟩
  | .face k tex zen => some ⟨k, tex, zen, true⟩
  | .render k tex => some ⟨k, tex, false, false⟩
  | _ => none

/-- The reason code of the first failing check of R241, in its order. -/
def State.rasterFailure (s : State) (o : RasterOperands) : Option Dword :=
  if (s.img o.target).valid = false then some 1#64
  else if ∃ t, o.tex = some t ∧ (s.img t).valid = false then some 2#64
  else if o.zen = true ∧ ¬ (s.zb.valid = true ∧ s.zb.w = (s.img o.target).hdr.width ∧
      s.zb.h = (s.img o.target).hdr.height) then some 3#64
  else if o.vertices = true ∧ ¬ (finiteBits s.a[0] ∧ finiteBits s.a[1] ∧ finiteBits s.a[3] ∧
      finiteBits s.a[4] ∧ finiteBits s.a[6] ∧ finiteBits s.a[7]) then some 4#64
  else none

/-- The three segments of an outline, every position they visit (R249). -/
def outlinePoints (v : Triangle) : List (Int × Int) :=
  linePoints v.v0.x.toint v.v0.y.toint v.v1.x.toint v.v1.y.toint ++
    linePoints v.v1.x.toint v.v1.y.toint v.v2.x.toint v.v2.y.toint ++
    linePoints v.v2.x.toint v.v2.y.toint v.v0.x.toint v.v0.y.toint

/-- After `i` iterations of the loop of R246 with the increment `g`: the error, and how many of them
stepped the minor coordinate. -/
def lineError (g : F64) : Nat → F64 × Nat
  | 0 => (F64.zero, 0)
  | i + 1 =>
    let e := (lineError g i).1.add g
    if e.ge F64.one = true then (e.sub F64.one, (lineError g i).2 + 1) else (e, (lineError g i).2)

/-! ## The fill of a triangle (44_rasterizer.md R250 to R262) -/

/-- A[0..2] = v0, A[3..5] = v1, A[6..8] = v2, each x, y, z (R262). -/
def State.operandTriangle (s : State) : Triangle :=
  { v0 := { x := .ofBits s.a[0], y := .ofBits s.a[1], z := .ofBits s.a[2] }
    v1 := { x := .ofBits s.a[3], y := .ofBits s.a[4], z := .ofBits s.a[5] }
    v2 := { x := .ofBits s.a[6], y := .ofBits s.a[7], z := .ofBits s.a[8] } }

/-- A[9], A[10] = t0; A[11], A[12] = t1; A[13], A[14] = t2 (R262). -/
def State.operandTexCoords (s : State) : TexCoords :=
  { t0 := { x := .ofBits s.a[9], y := .ofBits s.a[10] }
    t1 := { x := .ofBits s.a[11], y := .ofBits s.a[12] }
    t2 := { x := .ofBits s.a[13], y := .ofBits s.a[14] } }

/-- `clamp(v, 0, n − 1)`, an edge of the box in an image of `n` columns or rows (R250). -/
def boxEdge (n v : Nat) : Int := max 0 (min (v : Int) ((n : Int) - 1))

/-- `xmin` or `ymin`, from the three coordinates (R250). -/
def boxLow (n : Nat) (c0 c1 c2 : F64) : Int := boxEdge n (min (min c0.toint c1.toint) c2.toint)

/-- `xmax` or `ymax`, from the three coordinates (R250). -/
def boxHigh (n : Nat) (c0 c1 c2 : F64) : Int := boxEdge n (max (max c0.toint c1.toint) c2.toint)

/-- `det = ABx*ACy − ACx*ABy` (R252). -/
def determinant (v : Triangle) : F64 :=
  ((v.v1.x.sub v.v0.x).mul (v.v2.y.sub v.v0.y)).sub ((v.v2.x.sub v.v0.x).mul (v.v1.y.sub v.v0.y))

/-- `xmin == xmax or ymin == ymax or det == 0.0`, in an image of `w` by `h` pixels (R251). -/
def Degenerate (w h : Nat) (v : Triangle) : Prop :=
  boxLow w v.v0.x v.v1.x v.v2.x = boxHigh w v.v0.x v.v1.x v.v2.x ∨
    boxLow h v.v0.y v.v1.y v.v2.y = boxHigh h v.v0.y v.v1.y v.v2.y ∨
    (determinant v).eq F64.zero = true

/-- The weights of the pixel (x, y): the inverse of R252, applied as R253 says. -/
def pixelWeights (t : Triangle) (x y : Nat) : Weights :=
  let id := F64.one.div (determinant t)
  let m00 := (t.v2.y.sub t.v0.y).mul id
  let m01 := (t.v2.x.sub t.v0.x).neg.mul id
  let m10 := (t.v1.y.sub t.v0.y).neg.mul id
  let m11 := (t.v1.x.sub t.v0.x).mul id
  let apx := (F64.ofInt x).sub t.v0.x
  let apy := (F64.ofInt y).sub t.v0.y
  let u := (m00.mul apx).add (m01.mul apy)
  let v := (m10.mul apx).add (m11.mul apy)
  { u := u, v := v, uv := u.add v, w := F64.one.sub (u.add v) }

/-- `(w*a0 + u*a1) + v*a2`, a depth or a texture coordinate of a pixel (R256, R258,
40_numerics_geometry.md R145). -/
def weighted (k : Weights) (a0 a1 a2 : F64) : F64 := ((k.w.mul a0).add (k.u.mul a1)).add (k.v.mul a2)

/-- The depth of the pixel (x, y) (R256). -/
def pixelDepth (t : Triangle) (x y : Nat) : F64 := weighted (pixelWeights t x y) t.v0.z t.v1.z t.v2.z

/-- The texel of a fragment with the weights `k` is there and is `col`: its scaled coordinates are finite
and round to a pixel of the texture, else the fragment is dropped (R258, R259). -/
def TexelIs (im : Image) (c : TexCoords) (k : Weights) (col : Word) : Prop :=
  let tw := im.hdr.width.toNat
  let th := im.hdr.height.toNat
  let fx := (weighted k c.t0.x c.t1.x c.t2.x).mul (F64.ofInt tw)
  let fy := (weighted k c.t0.y c.t1.y c.t2.y).mul (F64.ofInt th)
  fx.isFinite = true ∧ fy.isFinite = true ∧
    0 ≤ fx.nearest ∧ fx.nearest < tw ∧ 0 ≤ fy.nearest ∧ fy.nearest < th ∧
    col = im.pix.read (fy.nearest.toNat * tw + fx.nearest.toNat)

/-- Under a TRI on slot `k`, pixel (x, y) receives the colour `col`: it lies in the clamped box (R250,
R255), its weights pass the inside test (R254), its depth the depth test where there is one (R257), and
its texel is there or, without a texture, A[15] gives the colour (R258 to R260, R262). -/
def State.Accepts (s : State) (k : Slot) (tex : Option Slot) (zen : Bool) (x y : Nat) (col : Word) : Prop :=
  let w := (s.img k).hdr.width.toNat
  let h := (s.img k).hdr.height.toNat
  let v := s.operandTriangle
  let p := pixelWeights v x y
  (boxLow w v.v0.x v.v1.x v.v2.x ≤ x ∧ (x : Int) ≤ boxHigh w v.v0.x v.v1.x v.v2.x ∧
      boxLow h v.v0.y v.v1.y v.v2.y ≤ y ∧ (y : Int) ≤ boxHigh h v.v0.y v.v1.y v.v2.y) ∧
    (p.u.ge F64.zero = true ∧ p.v.ge F64.zero = true ∧ p.uv.le F64.one = true) ∧
    (zen = true → (pixelDepth v x y).gt (F64.ofBits (s.zb.d.read (y * w + x))) = true) ∧
    match tex with
    | none => col = s.a[15].extractLsb' 0 32
    | some t => TexelIs (s.img t) s.operandTexCoords p col

/-! ## The MESH view (20_memory.md R70, 44_rasterizer.md R270) -/

/-- The preconditions of R70 for one face. -/
def Mesh.faceOk (m : Mesh) (tex : Bool) (f : MeshFace) : Prop :=
  (∀ i ∈ [f.v0, f.v1, f.v2], ∃ v, m.vertices[i]? = some v ∧ finiteBits v.x ∧ finiteBits v.y) ∧
    (tex = true → ∀ i ∈ [f.t0, f.t1, f.t2], i < m.texPoints.length)

/-- The preconditions of R70 for every face RENDER reads. -/
def Mesh.ok (m : Mesh) (tex : Bool) : Prop := ∀ f ∈ m.faces, m.faceOk tex f

/-- A face of the view loaded into A[0] to A[14] as FACE reads them (R262). -/
def State.loadFace (s : State) (f : MeshFace) : State :=
  let v0 := s.mesh.vertices.getD f.v0 ⟨0, 0, 0⟩
  let v1 := s.mesh.vertices.getD f.v1 ⟨0, 0, 0⟩
  let v2 := s.mesh.vertices.getD f.v2 ⟨0, 0, 0⟩
  let t0 := s.mesh.texPoints.getD f.t0 ⟨0, 0⟩
  let t1 := s.mesh.texPoints.getD f.t1 ⟨0, 0⟩
  let t2 := s.mesh.texPoints.getD f.t2 ⟨0, 0⟩
  { s with a := #v[v0.x, v0.y, v0.z, v1.x, v1.y, v1.z, v2.x, v2.y, v2.z,
                   t0.x, t0.y, t1.x, t1.y, t2.x, t2.y, 0#64] }

/-- One FACE command with depth test per face, in order; none where one of them does not answer a next
state without an error. -/
def State.faceByFace (k : Slot) (tex : Option Slot) : List MeshFace → State → Option State
  | [], s => some s
  | f :: fs, s =>
    match exec (.face k tex true) (s.loadFace f) with
    | .next t => if t.err = 0#8 then State.faceByFace k tex fs t else none
    | .fault _ => none
    | .refused _ => none

/-! ## Floating point (40_numerics_geometry.md R136, R137) -/

/-- A magnitude that binary64 represents: at most 53 significant bits. Magnitudes are multiples of
2^-1074, so subnormals are among them. -/
def F64.Rep (mag : Nat) : Prop := ∃ a e, a < 2 ^ 53 ∧ mag = a * 2 ^ e

/-- A value binary64 has. -/
def F64.Ok : F64 → Prop
  | .nan => True
  | .inf _ => True
  | .fin _ mag => F64.Rep mag ∧ mag < 2 ^ 2098

/-- The number a finite value stands for, as a rational. -/
def F64.real (neg : Bool) (mag : Nat) : ℚ := (F64.signedMag neg mag : ℚ) / 2 ^ 1074

/-- The place of a value on the number line, its infinities at the ends; a NaN has none (R139). -/
def F64.place : F64 → Option (WithBot (WithTop ℚ))
  | .nan => none
  | .inf true => some ⊥
  | .inf false => some ⊤
  | .fin neg mag => some (F64.real neg mag : WithTop ℚ)

/-- A representable magnitude whose 53-bit significand is even. -/
def F64.EvenRep (mag : Nat) : Prop := ∃ a e, a < 2 ^ 53 ∧ a % 2 = 0 ∧ mag = a * 2 ^ e

/-- `m` is the representable magnitude nearest `x`, a number of units of 2^-1074, and of two equally near
the one with the even significand. The exponent has no upper bound here. -/
def F64.NearestMag (x : ℚ) (m : Nat) : Prop :=
  F64.Rep m ∧ ∀ m', F64.Rep m' → m' ≠ m →
    |x - m| < |x - m'| ∨ (|x - m| = |x - m'| ∧ F64.EvenRep m)

/-- `v` is the number `x` rounded once to nearest, ties to even (R137): the nearest magnitude with the sign
of `x`, an infinity from 2^1024 on. Where `x` is zero it leaves the sign open. -/
def F64.Rounded (x : ℚ) (v : F64) : Prop :=
  ∃ neg m, (x ≠ 0 → (neg = true ↔ x < 0)) ∧ F64.NearestMag (|x| * 2 ^ 1074) m ∧
    v = if m < 2 ^ 2098 then .fin neg m else .inf neg

end Sys2Proof.Machine
end

