-- ==== Sys2Proof/Certificates/Slice0/Obligations.lean ====
section
/-! DEFINITION. The statements for the provers. Each docstring names the rule of spec/ it formalises;
where a clause rests on a choice of the model it names the log entry. -/

section
open Sys2Proof Sys2Proof.Machine

/-! ## Encoding (30_encoding.md) -/

/-- R100 to R103: the decoder reads back every operand of every legal instruction that the encoder wrote. -/
def Obligations.DecodeOfEncode : Prop :=
  ∀ i : Instr, i.wf = true → decode (encode i) = .ok i

/-- R100 to R104: a word or byte that decodes is the one encoding of a legal instruction, so no bit of it
is dropped. -/
def Obligations.EncodeOfDecode : Prop :=
  ∀ (c : Code) (i : Instr), decode c = .ok i → i.wf = true ∧ encode i = c

/-- R110: a word decodes iff it selects a CMD32 row of opcode_table.json, and then to that row's command;
a repetition byte selects the RLE8 row that bit 7 names. -/
def Obligations.LegalWordsSelectTheirRow : Prop :=
  (∀ w : Word,
    (∀ i, decode (.cmd32 w) = .ok i → ∃ r ∈ commandRows, r.selects w = true ∧ r.mnemonic = mnemonicOf i) ∧
    (∀ r ∈ commandRows, r.selects w = true → ∃ i, decode (.cmd32 w) = .ok i ∧ mnemonicOf i = r.mnemonic)) ∧
  (∀ b : Byte,
    (b &&& 0x80#8 = 0x00#8 → ∃ i, decode (.rle8 b) = .ok i ∧ mnemonicOf i = "RAW") ∧
    (b &&& 0x80#8 = 0x80#8 → ∃ i, decode (.rle8 b) = .ok i ∧ mnemonicOf i = "RUN"))

/-- R104 (log 4: the queue of host actions, the action taken off it): a word that meets one of the listed
conditions raises IllegalOperation(word, 0, COFF) and changes nothing else; every other word is a
command. -/
def Obligations.IllegalWordOnlyReports : Prop :=
  ∀ (w : Word) (s : State) (rest : List HostAction), s.dec = none → s.host = .command w :: rest →
    (wordIllegal w →
      step s = .next (({ s with host := rest } : State).errFrom 7#8 (w.setWidth 64) 0#64 (BitVec.ofNat 64 s.coff))) ∧
    (¬ wordIllegal w → ∃ i, i.isCommand = true ∧ decode (.cmd32 w) = .ok i)

/-- R100, R101: five words and two repetition bytes written out from the encoding. -/
def Obligations.WordsOfTheSpecDecode : Prop :=
  decode (.cmd32 0x00000000#32) = .ok .nop ∧
  decode (.cmd32 0x00020010#32) = .ok (.crd 2#4) ∧
  decode (.cmd32 0x00000120#32) = .ok (.inew .s1) ∧
  decode (.cmd32 0x00000E32#32) = .ok (.tri .s0 (some .s1) true) ∧
  decode (.cmd32 0x00000534#32) = .ok (.render .s1 (some .s0)) ∧
  decode (.rle8 0x01#8) = .ok (.raw 1#7) ∧
  decode (.rle8 0x82#8) = .ok (.run 2#7)

/-! ## Steps -/

/-- R29, R338 (log 4: the queue of host actions): between commands, a word the host writes to CMD that
decodes to `i` makes the step `exec i`, the action taken off the queue. -/
def Obligations.StepRunsDecodedCommand : Prop :=
  ∀ (s : State) (w : Word) (i : Instr) (rest : List HostAction), s.dec = none →
    s.host = .command w :: rest → decode (.cmd32 w) = .ok i → step s = exec i { s with host := rest }

/-- R102, R207, R292 (log 5: the packet level): in a decode in progress the byte at COFF decodes to a
packet and the step is `exec` of it, COFF moved past the byte; with no byte left the step ends the decode
with OutOfBounds(1, 0, COFF), COFF and the slots as they were. -/
def Obligations.StepRunsDecodedPacket : Prop :=
  ∀ (s : State) (d : Decoding), s.dec = some d →
    (∀ (b : Byte) (i : Instr), s.src[s.coff]? = some b → decode (.rle8 b) = .ok i →
      step s = exec i { s with coff := s.coff + 1 }) ∧
    (s.coff = s.src.length →
      step s = .next { s.errFrom 1#8 1#64 0#64 (BitVec.ofNat 64 s.coff) with dec := none })

/-- The reset state satisfies the invariant and is between commands (R40, R41). -/
def Obligations.ResetSatisfiesInvariant : Prop := State.reset.Inv ∧ State.reset.atBoundary

/-- R24, R30, R32 to R37: every step keeps the invariant: COFF inside SRC, a legal error code, legal
headers in valid slots and HS, empty invalid slots, PIX and ZB in canonical form inside their length. -/
def Obligations.StepKeepsInvariant : Prop :=
  ∀ s t : State, s.Inv → step s = .next t → t.Inv

/-- R29, R41: a step that begins between commands ends between commands: every command, IDEC's packet
loop included, runs to its end. -/
def Obligations.StepKeepsBoundary : Prop :=
  ∀ s t : State, s.atBoundary → step s = .next t → t.atBoundary

/-- R11, R207 (log 5): IDEC as one command does what its header part followed by single packet steps
does, and the packet steps come to an end after at most one step for each pixel. -/
def Obligations.IdecIsItsPacketSteps : Prop :=
  ∀ (k : Slot) (s : State), ∃ (n : Nat) (t : State),
    n ≤ (headerAt s.src s.coff).width.toNat * (headerAt s.src s.coff).height.toNat ∧
    exec (.idec k) s = .next t ∧ t.dec = none ∧ Host.Core.run Sys2Proof.core n (idecBegin k s) = .next t

/-! ## System and colour commands -/

/-- R312: NOP is the word 0; it clears the report and changes nothing else. -/
def Obligations.NopOnlyClearsReport : Prop :=
  encode .nop = .cmd32 0x00000000#32 ∧ ∀ s : State, exec .nop s = .next s.okFrom

/-- R161, R162, R163: PACK, UNPACK and FROM24, their words, their operands and the R registers they
write. -/
def Obligations.ColorCommandsResults : Prop :=
  (encode .pack = .cmd32 0x00000001#32 ∧ encode .unpack = .cmd32 0x00000002#32 ∧
    encode .from24 = .cmd32 0x00000003#32) ∧
  ∀ s : State,
    exec .pack s = .next { s.okFrom with
      r := s.r.set 0 ((s.a[0].extractLsb' 0 8 ++ s.a[1].extractLsb' 0 8 ++ s.a[2].extractLsb' 0 8 ++
        s.a[3].extractLsb' 0 8).setWidth 64) } ∧
    exec .unpack s = .next { s.okFrom with
      r := #v[(s.a[0].extractLsb' 24 8).setWidth 64, (s.a[0].extractLsb' 16 8).setWidth 64,
        (s.a[0].extractLsb' 8 8).setWidth 64, (s.a[0].extractLsb' 0 8).setWidth 64] } ∧
    exec .from24 s = .next { s.okFrom with
      r := s.r.set 0 ((s.a[0].extractLsb' 0 8 ++ s.a[1].extractLsb' 0 8 ++ s.a[2].extractLsb' 0 8 ++
        255#8).setWidth 64) }

/-- R164: unpack inverts pack on all channels, and pack inverts unpack on all words. -/
def Obligations.PackUnpackInverse : Prop :=
  (∀ r g b a : Byte, unpack (pack r g b a) = { r := r, g := g, b := b, a := a }) ∧
  (∀ c : Word, pack (unpack c).r (unpack c).g (unpack c).b (unpack c).a = c)

/-! ## The byte cursor (42_cursor.md) -/

/-- R180: CRD n: its word, and its effect with enough bytes and without. -/
def Obligations.CrdReadsBytes : Prop :=
  (∀ n : BitVec 4, encode (.crd n) = .cmd32 (0x00000010#32 ||| n.setWidth 32 <<< 16) ∧
    (8 < n.toNat → ∃ r, decode (.cmd32 (0x00000010#32 ||| n.setWidth 32 <<< 16)) = .error r)) ∧
  ∀ (n : BitVec 4) (s : State), n.toNat ≤ 8 → s.coff ≤ s.src.length →
    (n.toNat ≤ s.src.length - s.coff → ∃ v : Dword,
      exec (.crd n) s = .next { s.okFrom with
        coff := s.coff + n.toNat, r := (s.r.set 0 v).set 1 (n.setWidth 64) } ∧
      ∀ k < 8, v.extractLsb' (8 * k) 8 = if k < n.toNat then s.src.getD (s.coff + k) 0#8 else 0#8) ∧
    (s.src.length - s.coff < n.toNat →
      exec (.crd n) s = .next (s.errFrom 1#8 (n.setWidth 64) (BitVec.ofNat 64 (s.src.length - s.coff))
        (BitVec.ofNat 64 s.coff)))

/-- R181: CPK n: its word, and its effect with enough bytes and without; COFF never moves. -/
def Obligations.CpkPeeksBytes : Prop :=
  (∀ n : BitVec 4, encode (.cpk n) = .cmd32 (0x00000011#32 ||| n.setWidth 32 <<< 16) ∧
    (8 < n.toNat → ∃ r, decode (.cmd32 (0x00000011#32 ||| n.setWidth 32 <<< 16)) = .error r)) ∧
  ∀ (n : BitVec 4) (s : State), n.toNat ≤ 8 → s.coff ≤ s.src.length →
    (n.toNat ≤ s.src.length - s.coff → ∃ v : Dword,
      exec (.cpk n) s = .next { s.okFrom with r := (s.r.set 0 v).set 1 (n.setWidth 64) } ∧
      ∀ k < 8, v.extractLsb' (8 * k) 8 = if k < n.toNat then s.src.getD (s.coff + k) 0#8 else 0#8) ∧
    (s.src.length - s.coff < n.toNat →
      exec (.cpk n) s = .next (s.errFrom 1#8 (n.setWidth 64) (BitVec.ofNat 64 (s.src.length - s.coff))
        (BitVec.ofNat 64 s.coff)))

/-- R182: CSK: its word, and its effect with a position up to SRCLEN and beyond it. -/
def Obligations.CskSeeks : Prop :=
  encode .csk = .cmd32 0x00000012#32 ∧
  ∀ s : State,
    (s.a[0].toNat ≤ s.src.length → exec .csk s = .next { s.okFrom with coff := s.a[0].toNat }) ∧
    (s.src.length < s.a[0].toNat →
      exec .csk s = .next (s.errFrom 1#8 s.a[0] (BitVec.ofNat 64 s.src.length) (BitVec.ofNat 64 s.coff)))

/-- R183: CAC n: its word; a match moves COFF, a mismatch reports the expected and the actual bytes, too
few bytes are OutOfBounds; in the last two cases COFF stays. -/
def Obligations.CacAccepts : Prop :=
  (∀ n : BitVec 4, encode (.cac n) = .cmd32 (0x00000013#32 ||| n.setWidth 32 <<< 16)) ∧
  ∀ (n : BitVec 4) (s : State), n.toNat ≤ 8 → s.coff ≤ s.src.length →
    let expected := s.a[0].toNat % 2 ^ (8 * n.toNat)
    let actual := leValue s.src s.coff n.toNat
    (n.toNat ≤ s.src.length - s.coff → actual = expected →
      exec (.cac n) s = .next { s.okFrom with coff := s.coff + n.toNat }) ∧
    (n.toNat ≤ s.src.length - s.coff → actual ≠ expected →
      exec (.cac n) s = .next (s.errFrom 2#8 (BitVec.ofNat 64 expected) (BitVec.ofNat 64 actual)
        (BitVec.ofNat 64 s.coff))) ∧
    (s.src.length - s.coff < n.toNat →
      exec (.cac n) s = .next (s.errFrom 1#8 (n.setWidth 64) (BitVec.ofNat 64 (s.src.length - s.coff))
        (BitVec.ofNat 64 s.coff)))

/-- R185: the laws (a) to (e) of the cursor primitives; (e), that no primitive changes SRC, for the four
commands that expose them. -/
def Obligations.CursorLaws : Prop :=
  (∀ (src : List Byte) (n o : Nat) (b : List Byte),
    cursorPeek src n o = .ok b o ↔ ∃ c, cursorRead src n o = .ok b c) ∧
  (∀ (src : List Byte) (n o c : Nat) (b : List Byte), cursorRead src n o = .ok b c → c = o + n) ∧
  (∀ (src e : List Byte) (n pos o c : Nat) (r : Report),
    (cursorRead src n o = .err r c → c = o) ∧ (cursorPeek src n o = .err r c → c = o) ∧
    (cursorSeek src pos o = .err r c → c = o) ∧ (cursorAccept src e o = .err r c → c = o)) ∧
  (∀ (src e : List Byte) (o : Nat),
    (∃ c, cursorAccept src e o = .ok () c) ↔ cursorPeek src e.length o = .ok e o) ∧
  (∀ (s t : State) (n : BitVec 4) (i : Instr), i ∈ [Instr.crd n, .cpk n, .csk, .cac n] →
    exec i s = .next t → t.src = s.src)

/-! ## The image codec (43_codec.md) -/

/-- R191: INEW: its word, and its effect with dimensions in 1 to 65535 and with any other. -/
def Obligations.InewCreatesBlackImage : Prop :=
  (∀ k : Slot, encode (.inew k) = .cmd32 ((slotWord 0x20 k).setWidth 32)) ∧
  ∀ (k : Slot) (s : State),
    (1 ≤ s.a[0].toNat ∧ s.a[0].toNat ≤ 65535 ∧ 1 ≤ s.a[1].toNat ∧ s.a[1].toNat ≤ 65535 →
      ∃ m : PixMem, (∀ i, m.read i = 0x000000FF#32) ∧
        exec (.inew k) s = .next (s.okFrom.setImg k
          { valid := true
            hdr := { idLength := 0, colorMapType := 0, imageType := 2, colorMapSpec := 0, xOrigin := 0
                     yOrigin := 0, width := s.a[0].extractLsb' 0 16, height := s.a[1].extractLsb' 0 16
                     bitsPerPixel := 32, imageDescriptor := Config.idescW }
            pix := m })) ∧
    (¬ (1 ≤ s.a[0].toNat ∧ s.a[0].toNat ≤ 65535 ∧ 1 ≤ s.a[1].toNat ∧ s.a[1].toNat ≤ 65535) →
      exec (.inew k) s = .next (s.errFrom 7#8 (slotWord 0x20 k) 5#64 (BitVec.ofNat 64 s.coff)))

/-- R192: IGET: its word, and its effect on an invalid slot, outside the image, and inside it. -/
def Obligations.IgetReadsPixel : Prop :=
  (∀ k : Slot, encode (.iget k) = .cmd32 ((slotWord 0x21 k).setWidth 32)) ∧
  ∀ (k : Slot) (s : State),
    ((s.img k).valid = false →
      exec (.iget k) s = .next (s.errFrom 7#8 (slotWord 0x21 k) 1#64 (BitVec.ofNat 64 s.coff))) ∧
    ((s.img k).valid = true →
      ¬ (s.a[0].toNat < (s.img k).hdr.width.toNat ∧ s.a[1].toNat < (s.img k).hdr.height.toNat) →
      exec (.iget k) s = .next (s.errFrom 4#8 s.a[0] s.a[1] (BitVec.ofNat 64 s.coff))) ∧
    ((s.img k).valid = true → s.a[0].toNat < (s.img k).hdr.width.toNat →
      s.a[1].toNat < (s.img k).hdr.height.toNat →
      exec (.iget k) s = .next { s.okFrom with
        r := s.r.set 0 (((s.img k).pix.read
          (s.a[1].toNat * (s.img k).hdr.width.toNat + s.a[0].toNat)).setWidth 64) })

/-- R193: ISET: its word, and its effect on an invalid slot, outside the image, and inside it, where it
writes one element. -/
def Obligations.IsetWritesOnePixel : Prop :=
  (∀ k : Slot, encode (.iset k) = .cmd32 ((slotWord 0x22 k).setWidth 32)) ∧
  ∀ (k : Slot) (s : State),
    ((s.img k).valid = false →
      exec (.iset k) s = .next (s.errFrom 7#8 (slotWord 0x22 k) 1#64 (BitVec.ofNat 64 s.coff))) ∧
    ((s.img k).valid = true →
      ¬ (s.a[0].toNat < (s.img k).hdr.width.toNat ∧ s.a[1].toNat < (s.img k).hdr.height.toNat) →
      exec (.iset k) s = .next (s.errFrom 4#8 s.a[0] s.a[1] (BitVec.ofNat 64 s.coff))) ∧
    ((s.img k).valid = true → (s.img k).pix.wf → s.a[0].toNat < (s.img k).hdr.width.toNat →
      s.a[1].toNat < (s.img k).hdr.height.toNat →
      ∃ m : PixMem, exec (.iset k) s = .next (s.okFrom.setImg k { s.img k with pix := m }) ∧ m.wf ∧
        ∀ i, m.read i = if i = s.a[1].toNat * (s.img k).hdr.width.toNat + s.a[0].toNat
          then s.a[2].extractLsb' 0 32 else (s.img k).pix.read i)

/-- R194: after an ISET at a valid (x, y), an IGET at a valid (x', y') gives the colour set where the
positions are equal and what an IGET gave before everywhere else. -/
def Obligations.GetAfterSet : Prop :=
  ∀ (k : Slot) (s t u v : State) (x y : Dword), (s.img k).valid = true → (s.img k).pix.wf →
    s.a[0].toNat < (s.img k).hdr.width.toNat → s.a[1].toNat < (s.img k).hdr.height.toNat →
    x.toNat < (s.img k).hdr.width.toNat → y.toNat < (s.img k).hdr.height.toNat →
    exec (.iset k) s = .next t →
    exec (.iget k) { t with a := (t.a.set 0 x).set 1 y } = .next u →
    exec (.iget k) { s with a := (s.a.set 0 x).set 1 y } = .next v →
    u.r[0] = if x = s.a[0] ∧ y = s.a[1] then (s.a[2].extractLsb' 0 32).setWidth 64 else v.r[0]

/-- R197: IHDR: its word; a header that is there and whose fields pass goes to HS and COFF advances by
18; on any other, HS stays and the report and COFF are those of R199. -/
def Obligations.IhdrStagesHeader : Prop :=
  encode .ihdr = .cmd32 0x00000023#32 ∧
  ∀ s : State,
    (headerFailure s.src s.coff = none →
      exec .ihdr s = .next { s.okFrom with
        coff := s.coff + 18, hs := { valid := true, hdr := headerAt s.src s.coff } }) ∧
    (∀ f, headerFailure s.src s.coff = some f →
      exec .ihdr s = .next { s.errFrom f.code f.info0 f.info1 f.off with coff := f.coff })

/-- R199, R302: on any other header, IHDR and IDEC end with the report and the COFF of the table's row for
the first failing field, and change nothing else. -/
def Obligations.HeaderErrorsFollowTable : Prop :=
  ∀ (s : State) (f : FieldFailure) (k : Slot), headerFailure s.src s.coff = some f →
    exec .ihdr s = .next { s.errFrom f.code f.info0 f.info1 f.off with coff := f.coff } ∧
    (s.dec = none →
      exec (.idec k) s = .next { s.errFrom f.code f.info0 f.info1 f.off with coff := f.coff })

/-- R203, R210: IDEC of an uncompressed file, with all its pixel bytes there and without. -/
def Obligations.IdecUncompressed : Prop :=
  ∀ (k : Slot) (s : State), s.dec = none → headerFailure s.src s.coff = none →
    (headerAt s.src s.coff).imageType = 2#8 →
    let h := headerAt s.src s.coff
    let n := h.width.toNat * h.height.toNat
    let b := h.bitsPerPixel.toNat / 8
    (s.coff + 18 + n * b ≤ s.src.length → ∃ m : PixMem,
      exec (.idec k) s = .next (({ s.okFrom with
        coff := s.coff + 18 + n * b, hs := { valid := true, hdr := h } } : State).setImg k
          { valid := true, hdr := h, pix := m }) ∧ m.wf ∧
      ∀ i < n, m.read i = pixelAt s.src (s.coff + 18 + i * b) b) ∧
    (s.src.length < s.coff + 18 + n * b →
      exec (.idec k) s = .next { s.errFrom 1#8 (BitVec.ofNat 64 (n * b))
        (BitVec.ofNat 64 (s.src.length - (s.coff + 18))) (BitVec.ofNat 64 (s.coff + 18)) with
          coff := s.coff + 18, hs := { valid := true, hdr := h } })

/-- R207 to R210, R217: IDEC: its word; of a run-length file whose packets spell exactly width*height
pixels it puts those pixels, in linear-index order, into the slot. -/
def Obligations.IdecRunLength : Prop :=
  (∀ k : Slot, encode (.idec k) = .cmd32 ((slotWord 0x24 k).setWidth 32)) ∧
  ∀ (k : Slot) (s : State) (ps : List Word) (c : Nat), s.dec = none → headerFailure s.src s.coff = none →
    (headerAt s.src s.coff).imageType = 10#8 →
    Packets s.src ((headerAt s.src s.coff).bitsPerPixel.toNat / 8) (s.coff + 18) ps c →
    ps.length = (headerAt s.src s.coff).width.toNat * (headerAt s.src s.coff).height.toNat →
    ∃ m : PixMem,
      exec (.idec k) s = .next (({ s.okFrom with
        coff := c, hs := { valid := true, hdr := headerAt s.src s.coff } } : State).setImg k
          { valid := true, hdr := headerAt s.src s.coff, pix := m }) ∧ m.wf ∧
      ∀ i < ps.length, m.read i = ps.getD i 0#32

/-- R304, R219: a failed IDEC leaves both slots exactly as they were; HS is new iff the header parsed;
besides the report and COFF nothing else changes. -/
def Obligations.FailedIdecKeepsSlot : Prop :=
  ∀ (k : Slot) (s t : State), s.dec = none → exec (.idec k) s = .next t → t.err ≠ 0#8 →
    t = { s with
      err := t.err, einfo0 := t.einfo0, einfo1 := t.einfo1, eoff := t.eoff, coff := t.coff
      hs := if headerFailure s.src s.coff = none then { valid := true, hdr := headerAt s.src s.coff }
            else s.hs }

/-- R208, and R207, R210 for what becomes of its pixels (log 5: the packet level): a RAW packet, bit 7 of
its byte 0, that fits its image: with all its bytes there and cut short. -/
def Obligations.RawPacketProducesPixels : Prop :=
  (∀ n : BitVec 7, encode (.raw n) = .rle8 (0#1 ++ n)) ∧
  ∀ (n : BitVec 7) (s : State) (d : Decoding), s.dec = some d → d.ok → s.coff ≤ s.src.length →
    d.pix.length + (n.toNat + 1) ≤ d.hdr.width.toNat * d.hdr.height.toNat →
    let k := d.hdr.bitsPerPixel.toNat / 8
    (s.coff + (n.toNat + 1) * k ≤ s.src.length →
      exec (.raw n) s = .next (s.produced d
        ((List.range (n.toNat + 1)).map fun j => pixelAt s.src (s.coff + j * k) k)
        (s.coff + (n.toNat + 1) * k))) ∧
    (s.src.length < s.coff + (n.toNat + 1) * k →
      let p := s.coff + (s.src.length - s.coff) / k * k
      exec (.raw n) s = .next { s.errFrom 1#8 (BitVec.ofNat 64 k) (BitVec.ofNat 64 (s.src.length - p))
        (BitVec.ofNat 64 p) with coff := p, dec := none })

/-- R209, and R207, R210 for what becomes of its pixels (log 5: the packet level): a RUN packet, bit 7 of
its byte 1, that fits its image: with its colour there and cut short. -/
def Obligations.RunPacketReplicatesPixel : Prop :=
  (∀ n : BitVec 7, encode (.run n) = .rle8 (1#1 ++ n)) ∧
  ∀ (n : BitVec 7) (s : State) (d : Decoding), s.dec = some d → d.ok → s.coff ≤ s.src.length →
    d.pix.length + (n.toNat + 1) ≤ d.hdr.width.toNat * d.hdr.height.toNat →
    let k := d.hdr.bitsPerPixel.toNat / 8
    (s.coff + k ≤ s.src.length →
      exec (.run n) s = .next (s.produced d (List.replicate (n.toNat + 1) (pixelAt s.src s.coff k))
        (s.coff + k))) ∧
    (s.src.length < s.coff + k →
      exec (.run n) s = .next { s.errFrom 1#8 (BitVec.ofNat 64 k)
        (BitVec.ofNat 64 (s.src.length - s.coff)) (BitVec.ofNat 64 s.coff) with dec := none })

/-- R207: a packet whose count exceeds the pixels still wanted is MalformedStream(count, wanted, offset of
the repetition byte), before any pixel byte is read, and ends the decode. Log 14, the model's choice: a
packet with no decode in progress is refused by name. -/
def Obligations.PacketOvershootIsMalformed : Prop :=
  ∀ (n : BitVec 7) (s : State) (i : Instr), i ∈ [Instr.raw n, .run n] →
    (∀ d, s.dec = some d → 0 < s.coff →
      d.hdr.width.toNat * d.hdr.height.toNat < d.pix.length + (n.toNat + 1) →
      exec i s = .next { s.errFrom 6#8 (BitVec.ofNat 64 (n.toNat + 1))
        (BitVec.ofNat 64 (d.hdr.width.toNat * d.hdr.height.toNat - d.pix.length))
        (BitVec.ofNat 64 (s.coff - 1)) with dec := none }) ∧
    (s.dec = none → exec i s = .refused .packetOutsideDecode)

/-- R212, R213, R215: IENC: its word; it appends header, pixels in linear-index order as B, G, R, A, and footer; an
invalid slot is IllegalOperation reason 1. -/
def Obligations.IencAppendsFile : Prop :=
  (∀ k : Slot, encode (.ienc k) = .cmd32 ((slotWord 0x25 k).setWidth 32)) ∧
  ∀ (k : Slot) (s : State),
    ((s.img k).valid = true →
      let h := (s.img k).hdr
      let n := h.width.toNat * h.height.toNat
      ∃ f : List Byte, exec (.ienc k) s = .next { s.okFrom with snk := s.snk ++ f } ∧
        f.length = 18 + 4 * n + 26 ∧
        f.take 18 = [0#8, 0#8, 2#8, 0#8, 0#8, 0#8, 0#8, 0#8, h.xOrigin.extractLsb' 0 8,
          h.xOrigin.extractLsb' 8 8, h.yOrigin.extractLsb' 0 8, h.yOrigin.extractLsb' 8 8,
          h.width.extractLsb' 0 8, h.width.extractLsb' 8 8, h.height.extractLsb' 0 8,
          h.height.extractLsb' 8 8, 32#8, Config.idescW] ∧
        (∀ i < n, (f.drop (18 + 4 * i)).take 4 =
          [((s.img k).pix.read i).extractLsb' 8 8, ((s.img k).pix.read i).extractLsb' 16 8,
           ((s.img k).pix.read i).extractLsb' 24 8, ((s.img k).pix.read i).extractLsb' 0 8]) ∧
        f.drop (18 + 4 * n) = [0x00#8, 0x00#8, 0x00#8, 0x00#8, 0x00#8, 0x00#8, 0x00#8, 0x00#8, 0x54#8,
          0x52#8, 0x55#8, 0x45#8, 0x56#8, 0x49#8, 0x53#8, 0x49#8, 0x4F#8, 0x4E#8, 0x2D#8, 0x58#8,
          0x46#8, 0x49#8, 0x4C#8, 0x45#8, 0x2E#8, 0x00#8]) ∧
    ((s.img k).valid = false →
      exec (.ienc k) s = .next (s.errFrom 7#8 (slotWord 0x25 k) 1#64 (BitVec.ofNat 64 s.coff)))

/-- R216: IENC of a valid slot into an empty SNK, SNK loaded as SRC, IDEC into any slot: the decode
succeeds and gives back the pixels, the dimensions and the origins. -/
def Obligations.EncodeThenDecodeRoundTrip : Prop :=
  ∀ (k j : Slot) (s t : State), s.dec = none → (s.img k).valid = true → (s.img k).ok →
    exec (.ienc k) { s with snk := [] } = .next t →
    ∃ u, exec (.idec j) { t with src := t.snk, coff := 0 } = .next u ∧ u.err = 0#8 ∧
      (u.img j).valid = true ∧ (u.img j).pix = (s.img k).pix ∧
      (u.img j).hdr = { (s.img k).hdr with
        imageType := 2, bitsPerPixel := 32, imageDescriptor := Config.idescW } ∧
      u.coff + 26 = u.src.length

/-! ## The rasterizer (44_rasterizer.md) -/

/-- R241: a raster command whose checks fail reports the first failing check and writes nothing; with all
checks passed every raster command but RENDER ends without an error. -/
def Obligations.RasterChecksInOrder : Prop :=
  ∀ (i : Instr) (o : RasterOperands) (w : Word) (s : State), rasterOperands i = some o →
    encode i = .cmd32 w →
    (∀ r, s.rasterFailure o = some r →
      exec i s = .next (s.errFrom 7#8 (w.setWidth 64) r (BitVec.ofNat 64 s.coff))) ∧
    (s.rasterFailure o = none → (∀ k tex, i ≠ .render k tex) →
      ∃ t, exec i s = .next t ∧ t.err = 0#8)

/-- R240: ZCLR: its word; on a valid slot it makes a depth buffer of the slot's dimensions, all minus
infinity; on an invalid one it is IllegalOperation reason 1. -/
def Obligations.ZclrMakesFreshDepth : Prop :=
  (∀ k : Slot, encode (.zclr k) = .cmd32 ((slotWord 0x30 k).setWidth 32)) ∧
  ∀ (k : Slot) (s : State),
    ((s.img k).valid = true →
      ∃ m : DepthMem, (∀ i, m.read i = 0xFFF0000000000000#64) ∧
        exec (.zclr k) s = .next { s.okFrom with
          zb := { valid := true, w := (s.img k).hdr.width, h := (s.img k).hdr.height, d := m } }) ∧
    ((s.img k).valid = false →
      exec (.zclr k) s = .next (s.errFrom 7#8 (slotWord 0x30 k) 1#64 (BitVec.ofNat 64 s.coff)))

/-- R244, R247: LINE: its word; on a valid slot it colours exactly the pixels of the image that its line
visits; on an invalid one it is IllegalOperation reason 1. -/
def Obligations.LineColorsVisitedPixels : Prop :=
  (∀ k : Slot, encode (.line k) = .cmd32 ((slotWord 0x31 k).setWidth 32)) ∧
  ∀ (k : Slot) (s : State),
    ((s.img k).valid = false →
      exec (.line k) s = .next (s.errFrom 7#8 (slotWord 0x31 k) 1#64 (BitVec.ofNat 64 s.coff))) ∧
    ((s.img k).valid = true → (s.img k).pix.wf →
      let w := (s.img k).hdr.width.toNat
      let h := (s.img k).hdr.height.toNat
      let ps := linePoints (s.a[0].extractLsb' 0 16).toNat (s.a[1].extractLsb' 0 16).toNat
        (s.a[2].extractLsb' 0 16).toNat (s.a[3].extractLsb' 0 16).toNat
      ∃ m : PixMem, exec (.line k) s = .next (s.okFrom.setImg k { s.img k with pix := m }) ∧ m.wf ∧
        (∀ x y : Nat, x < w → y < h →
          (((x : Int), (y : Int)) ∈ ps → m.read (y * w + x) = s.a[4].extractLsb' 0 32) ∧
          (((x : Int), (y : Int)) ∉ ps → m.read (y * w + x) = (s.img k).pix.read (y * w + x))) ∧
        ∀ i, w * h ≤ i → m.read i = (s.img k).pix.read i)

/-- R246: a line makes max(|dx|, |dy|) + 1 plots, no position twice, its driving coordinate one step on
in each, its minor coordinate one step on where the error, increased by g, reaches 1.0, the endpoint
last. -/
def Obligations.LineVisitsEachStepOnce : Prop :=
  ∀ x0 y0 x1 y1 : Nat,
    let dx : Int := (x1 : Int) - x0
    let dy : Int := (y1 : Int) - y0
    let g := lineSlope dx dy
    let ps := linePoints x0 y0 x1 y1
    ps.length = max dx.natAbs dy.natAbs + 1 ∧ ps.Nodup ∧ ps.getLast? = some ((x1 : Int), (y1 : Int)) ∧
      ps.head? = some ((x0 : Int), (y0 : Int)) ∧
      (dy.natAbs ≤ dx.natAbs → ∀ i ≤ dx.natAbs, (ps.map Prod.fst)[i]? = some (x0 + i * dx.sign)) ∧
      (dx.natAbs < dy.natAbs → ∀ i ≤ dy.natAbs, (ps.map Prod.snd)[i]? = some (y0 + i * dy.sign)) ∧
      (dy.natAbs ≤ dx.natAbs → ∀ i < dx.natAbs,
        (ps.map Prod.snd)[i]? = some (y0 + (lineError g i).2 * dy.sign)) ∧
      (dx.natAbs < dy.natAbs → ∀ i < dy.natAbs,
        (ps.map Prod.fst)[i]? = some (x0 + (lineError g i).2 * dx.sign))

/-- R245, R137 (log 9): the error increment of a line is 0.0 where a difference is 0, else the absolute
quotient of the smaller by the larger difference, rounded once; it lies between 0 and 1. -/
def Obligations.LineSlopeIsRoundedQuotient : Prop :=
  ∀ dx dy : Int, dx.natAbs ≤ 65535 → dy.natAbs ≤ 65535 →
    (dx = 0 ∨ dy = 0 → lineSlope dx dy = .fin false 0) ∧
    (dx ≠ 0 → dy ≠ 0 →
      F64.Rounded ((min dx.natAbs dy.natAbs : ℚ) / (max dx.natAbs dy.natAbs : ℚ)) (lineSlope dx dy)) ∧
    (lineSlope dx dy).ge F64.zero = true ∧ (lineSlope dx dy).le F64.one = true

/-- R246: the positions of a line stay between the coordinates of its endpoints. -/
def Obligations.LineStaysBetweenEndpoints : Prop :=
  ∀ x0 y0 x1 y1 : Nat, x0 ≤ 65535 → y0 ≤ 65535 → x1 ≤ 65535 → y1 ≤ 65535 →
    ∀ p ∈ linePoints x0 y0 x1 y1,
      ((min x0 x1 : Nat) : Int) ≤ p.1 ∧ p.1 ≤ ((max x0 x1 : Nat) : Int) ∧
      ((min y0 y1 : Nat) : Int) ≤ p.2 ∧ p.2 ≤ ((max y0 y1 : Nat) : Int)

/-- R250 to R262: TRI: its word; one that is not degenerate writes the accepted pixels, each from its own
stored depth alone, and with `zen` their depths; nothing else changes. -/
def Obligations.TriFillsAcceptedPixels : Prop :=
  (∀ (k : Slot) (tex : Option Slot) (zen : Bool),
    encode (.tri k tex zen) = .cmd32 (fillWord 0x32 k tex zen)) ∧
  ∀ (k : Slot) (tex : Option Slot) (zen : Bool) (s : State), tex ≠ some k →
    s.rasterFailure ⟨k, tex, zen, true⟩ = none → (s.img k).pix.wf → s.zb.d.wf →
    let w := (s.img k).hdr.width.toNat
    let h := (s.img k).hdr.height.toNat
    ¬ Degenerate w h s.operandTriangle →
    ∃ (m : PixMem) (d : DepthMem),
      exec (.tri k tex zen) s =
        .next ({ s.okFrom with zb := { s.zb with d := d } }.setImg k { s.img k with pix := m }) ∧
      m.wf ∧ d.wf ∧
      (∀ x y : Nat, x < w → y < h →
        (∀ col, s.Accepts k tex zen x y col →
          m.read (y * w + x) = col ∧
          d.read (y * w + x) = if zen then (pixelDepth s.operandTriangle x y).toBits
            else s.zb.d.read (y * w + x)) ∧
        ((∀ col, ¬ s.Accepts k tex zen x y col) →
          m.read (y * w + x) = (s.img k).pix.read (y * w + x) ∧
          d.read (y * w + x) = s.zb.d.read (y * w + x))) ∧
      ∀ i, w * h ≤ i → m.read i = (s.img k).pix.read i ∧ d.read i = s.zb.d.read i

/-- R249, R251: a degenerate TRI draws its outline in OUTLINE_COLOR, writes no depth, fills nothing and
reports no error. -/
def Obligations.DegenerateTriDrawsOutline : Prop :=
  ∀ (k : Slot) (tex : Option Slot) (zen : Bool) (s : State),
    s.rasterFailure ⟨k, tex, zen, true⟩ = none → (s.img k).pix.wf →
    let w := (s.img k).hdr.width.toNat
    let h := (s.img k).hdr.height.toNat
    let ps := outlinePoints s.operandTriangle
    Degenerate w h s.operandTriangle →
    ∃ m : PixMem, exec (.tri k tex zen) s = .next (s.okFrom.setImg k { s.img k with pix := m }) ∧ m.wf ∧
      (∀ x y : Nat, x < w → y < h →
        (((x : Int), (y : Int)) ∈ ps → m.read (y * w + x) = Config.outlineColor) ∧
        (((x : Int), (y : Int)) ∉ ps → m.read (y * w + x) = (s.img k).pix.read (y * w + x))) ∧
      ∀ i, w * h ≤ i → m.read i = (s.img k).pix.read i

/-- R264 to R268: FACE: its word; it draws nothing where the normal's length is not positive or the
intensity is not; elsewhere it does what TRI does with the grey of round(intensity * 255) in A[15]. -/
def Obligations.FaceCullsOrShades : Prop :=
  (∀ (k : Slot) (tex : Option Slot) (zen : Bool),
    encode (.face k tex zen) = .cmd32 (fillWord 0x33 k tex zen)) ∧
  ∀ (k : Slot) (tex : Option Slot) (zen : Bool) (s : State),
    s.rasterFailure ⟨k, tex, zen, true⟩ = none →
    let v := s.operandTriangle
    let e1 : Vec3 := ⟨v.v1.x.sub v.v0.x, v.v1.y.sub v.v0.y, v.v1.z.sub v.v0.z⟩
    let e2 : Vec3 := ⟨v.v2.x.sub v.v0.x, v.v2.y.sub v.v0.y, v.v2.z.sub v.v0.z⟩
    let n : Vec3 := ⟨(e1.y.mul e2.z).sub (e1.z.mul e2.y), (e1.z.mul e2.x).sub (e1.x.mul e2.z),
      (e1.x.mul e2.y).sub (e1.y.mul e2.x)⟩
    let l := (((n.x.mul n.x).add (n.y.mul n.y)).add (n.z.mul n.z)).sqrt
    let i := n.z.div l
    let g : Byte := BitVec.ofNat 8 (max 0 (min (i.mul (F64.ofInt 255)).nearest 255)).toNat
    let c : Dword := (g ++ g ++ g ++ 255#8).setWidth 64
    (l.gt F64.zero = true → i.gt F64.zero = true →
      ∃ t, exec (.face k tex zen) s = .next t ∧
        exec (.tri k tex zen) { s with a := s.a.set 15 c } = .next { t with a := s.a.set 15 c }) ∧
    (¬ (l.gt F64.zero = true ∧ i.gt F64.zero = true) → exec (.face k tex zen) s = .next s.okFrom)

/-- R270: RENDER is ZCLR of its target, then one FACE with depth test per face of the view in order, then
the depth buffer discarded; its operands come from the view, so A is as before. -/
def Obligations.RenderIsFaceByFace : Prop :=
  ∀ (k : Slot) (tex : Option Slot) (s : State), tex ≠ some k →
    s.rasterFailure ⟨k, tex, false, false⟩ = none → s.mesh.ok tex.isSome →
    ∃ u v, exec (.zclr k) s = .next u ∧ u.faceByFace k tex u.mesh.faces = some v ∧
      exec (.render k tex) s = .next { v with
        a := s.a, zb := { valid := false, w := 0, h := 0, d := { cells := [] } } }

/-- R270: RENDER: its word; over a view that meets R70 it completes, writes the target's pixels only, leaves
no depth buffer, and with no face leaves the pixels as they were. Log 12, the model's choice for U8: over
any other view it is refused by name. -/
def Obligations.RenderCompletes : Prop :=
  (∀ (k : Slot) (tex : Option Slot), encode (.render k tex) = .cmd32 (fillWord 0x34 k tex false)) ∧
  ∀ (k : Slot) (tex : Option Slot) (s : State), s.rasterFailure ⟨k, tex, false, false⟩ = none →
    (s.img k).pix.wf →
    (s.mesh.ok tex.isSome → ∃ m : PixMem,
      exec (.render k tex) s = .next ({ s.okFrom with
        zb := { valid := false, w := 0, h := 0, d := { cells := [] } } }.setImg k
          { s.img k with pix := m }) ∧ m.wf ∧
      (∀ i, (s.img k).hdr.width.toNat * (s.img k).hdr.height.toNat ≤ i →
        m.read i = (s.img k).pix.read i) ∧
      (s.mesh.faces = [] → m = (s.img k).pix)) ∧
    (¬ s.mesh.ok tex.isSome → exec (.render k tex) s = .refused .meshPrecondition)

/-- R257: where a triangle with depth test that is not degenerate changes a pixel or a depth, the new
depth is strictly greater than the stored one. -/
def Obligations.DepthOnlyGrows : Prop :=
  ∀ (k : Slot) (tex : Option Slot) (i : Instr) (s t : State),
    i ∈ [Instr.tri k tex true, .face k tex true] → (s.img k).pix.wf → s.zb.d.wf →
    ¬ Degenerate (s.img k).hdr.width.toNat (s.img k).hdr.height.toNat s.operandTriangle →
    exec i s = .next t →
    ∀ j, ((t.img k).pix.read j = (s.img k).pix.read j ∧ t.zb.d.read j = s.zb.d.read j) ∨
      (F64.ofBits (t.zb.d.read j)).gt (F64.ofBits (s.zb.d.read j)) = true

/-- R257, "exact depth ties always keep the first-drawn triangle", of the same triangle redrawn: a second
time with another flat colour it changes neither a pixel nor a depth. -/
def Obligations.RedrawnTriangleKeepsFirst : Prop :=
  ∀ (k : Slot) (tex : Option Slot) (s t u : State) (c : Dword), tex ≠ some k →
    (s.img k).pix.wf → s.zb.d.wf →
    ¬ Degenerate (s.img k).hdr.width.toNat (s.img k).hdr.height.toNat s.operandTriangle →
    exec (.tri k tex true) s = .next t → t.err = 0#8 →
    exec (.tri k tex true) { t with a := t.a.set 15 c } = .next u →
    u = { t with a := t.a.set 15 c }

/-- R340, R343: a raster command, and an ISET, IGET or IENC, uses no buffer its word does not name. With
another depth buffer, those without depth test do the same and leave it; ZCLR and RENDER, which make their
own, end in the same state, or in their report with it left. With another image in a slot that is neither
target nor texture, all do the same and leave it. -/
def Obligations.UnnamedBuffersDoNotMatter : Prop :=
  ∀ (k : Slot) (tex : Option Slot) (zen : Bool) (i : Instr) (s t : State), exec i s = .next t →
    (i ∈ [Instr.tri k tex false, .face k tex false, .line k, .iset k, .iget k, .ienc k] →
      ∀ z : DepthBuffer, exec i { s with zb := z } = .next { t with zb := z }) ∧
    (i ∈ [Instr.zclr k, .render k tex] →
      ∀ z : DepthBuffer, exec i { s with zb := z } = .next (if t.err = 0#8 then t else { t with zb := z })) ∧
    (i ∈ [Instr.tri k tex zen, .face k tex zen, .render k tex, .zclr k, .line k, .iset k, .iget k, .ienc k] →
      ∀ (j : Slot) (im : Image), j ≠ k → tex ≠ some j →
        exec i (s.setImg j im) = .next (t.setImg j im))

/-! ## Floating point (40_numerics_geometry.md) -/

/-- R137 (log 9: binary64): the rounded magnitude is a value of binary64's 53 bits, none is nearer to num/den, and of two
equally near the one with the even significand is taken. -/
def Obligations.RoundingIsToNearestEven : Prop :=
  ∀ num den : Nat, 0 < den →
    F64.Rep (roundMag num den) ∧
    ∀ m, F64.Rep m →
      (m < roundMag num den → (m + roundMag num den) * den ≤ 2 * num) ∧
      (roundMag num den < m → 2 * num ≤ (m + roundMag num den) * den) ∧
      (m ≠ roundMag num den → (m + roundMag num den) * den = 2 * num →
        (roundMag num den / 2 ^ ((num / den).log2 - 52)) % 2 = 0)

/-- R136 (log 9: binary64; log 8: the free bits of a NaN): bit patterns and values determine each other:
every pattern but the NaNs, every value that binary64 has. -/
def Obligations.BitPatternsAndValues : Prop :=
  (∀ b : Dword, F64.Ok (F64.ofBits b) ∧ (F64.ofBits b ≠ .nan → (F64.ofBits b).toBits = b)) ∧
  (∀ v : F64, v.Ok → F64.ofBits v.toBits = v)

/-- R137 (log 9: the special cases are IEEE 754's): every operation answers a value binary64 has. On
finite operands a sum, difference, product or quotient is the exact one rounded once, and a zero result
has the sign given here; negation and absolute value are exact. An invalid operation and a NaN operand
give a NaN, a non-zero by zero an infinity. -/
def Obligations.FloatOperationsRoundOnce : Prop :=
  (∀ a b : F64, a.Ok → b.Ok →
    (a.add b).Ok ∧ (a.sub b).Ok ∧ (a.mul b).Ok ∧ (a.div b).Ok ∧ a.sqrt.Ok ∧ a.abs.Ok ∧ a.neg.Ok) ∧
  (∀ (n m : Bool) (p q : Nat),
    let a := F64.fin n p
    let b := F64.fin m q
    let x := F64.real n p
    let y := F64.real m q
    (F64.Rounded (x + y) (a.add b) ∧ (x + y = 0 → a.add b = .fin (n && m) 0)) ∧
    (F64.Rounded (x - y) (a.sub b) ∧ (x - y = 0 → a.sub b = .fin (n && !m) 0)) ∧
    (F64.Rounded (x * y) (a.mul b) ∧ (x * y = 0 → a.mul b = .fin (n != m) 0)) ∧
    (y ≠ 0 → F64.Rounded (x / y) (a.div b) ∧ (x = 0 → a.div b = .fin (n != m) 0)) ∧
    (y = 0 → a.div b = if x = 0 then .nan else .inf (n != m)) ∧
    a.neg = .fin (!n) p ∧ a.abs = .fin false p) ∧
  (∀ n m : Bool,
    (F64.inf n).add (.inf m) = (if n = m then .inf n else .nan) ∧
    (F64.inf n).sub (.inf m) = (if n = m then .nan else .inf n) ∧
    (F64.inf n).mul (.inf m) = .inf (n != m) ∧ (F64.inf n).div (.inf m) = .nan ∧
    (F64.inf n).neg = .inf (!n) ∧ (F64.inf n).abs = .inf false) ∧
  (∀ (n m : Bool) (q : Nat),
    (F64.inf n).add (.fin m q) = .inf n ∧ (F64.fin m q).add (.inf n) = .inf n ∧
    (F64.inf n).sub (.fin m q) = .inf n ∧ (F64.fin m q).sub (.inf n) = .inf (!n) ∧
    (F64.inf n).mul (.fin m q) = (if q = 0 then .nan else .inf (n != m)) ∧
    (F64.fin m q).mul (.inf n) = (if q = 0 then .nan else .inf (m != n)) ∧
    (F64.inf n).div (.fin m q) = .inf (n != m) ∧ (F64.fin m q).div (.inf n) = .fin (m != n) 0) ∧
  ∀ a : F64, ∀ f ∈ [F64.add, F64.sub, F64.mul, F64.div], f .nan a = .nan ∧ f a .nan = .nan

/-- R137 (log 9: binary64 and its special cases): the square root is the correctly rounded one: no value
of 53 bits is nearer to the root of `mag * 2^1074`, the square of the root in units of 2^-1074. The root
of a zero is that zero, of a negative number a NaN. -/
def Obligations.SqrtIsNearest : Prop :=
  (∀ mag : Nat, 0 < mag → mag < 2 ^ 2098 →
    (F64.fin false mag).sqrt = .fin false (sqrtMag mag) ∧ F64.Rep (sqrtMag mag) ∧
    ∀ m, F64.Rep m →
      (m < sqrtMag mag → (m + sqrtMag mag) ^ 2 ≤ 4 * (mag * 2 ^ 1074)) ∧
      (sqrtMag mag < m → 4 * (mag * 2 ^ 1074) ≤ (m + sqrtMag mag) ^ 2)) ∧
  (∀ neg : Bool, (F64.fin neg 0).sqrt = .fin neg 0) ∧ (∀ mag : Nat, 0 < mag → (F64.fin true mag).sqrt = .nan) ∧
  (F64.inf false).sqrt = .inf false ∧ (F64.inf true).sqrt = .nan ∧ F64.nan.sqrt = .nan

/-- R138: f(i) is exact below 2^17, isfinite is false on NaN and the infinities alone, toint is
clamp(floor(a), 0, 65535) and round the nearest integer with ties away from zero, for finite a. R139: a
comparison holds iff it holds of the places on the number line, so never of a NaN; the consequences R139
draws for the inside test and the depth test. -/
def Obligations.ConversionsAndComparisons : Prop :=
  (∀ i : Int, i.natAbs < 2 ^ 17 → ∃ neg mag, F64.ofInt i = .fin neg mag ∧ F64.real neg mag = i) ∧
  (∀ a : F64, a.isFinite = true ↔ a ≠ .nan ∧ ∀ n, a ≠ .inf n) ∧
  (∀ (neg : Bool) (mag : Nat),
    ((F64.fin neg mag).toint : Int) = max 0 (min ⌊F64.real neg mag⌋ 65535)) ∧
  (∀ (neg : Bool) (mag : Nat),
    |((F64.fin neg mag).nearest : ℚ) - F64.real neg mag| ≤ 1 / 2 ∧
    (|((F64.fin neg mag).nearest : ℚ) - F64.real neg mag| = 1 / 2 →
      |F64.real neg mag| < |((F64.fin neg mag).nearest : ℚ)|)) ∧
  (∀ a b : F64,
    (a.lt b = true ↔ ∃ x y, a.place = some x ∧ b.place = some y ∧ x < y) ∧
    (a.le b = true ↔ ∃ x y, a.place = some x ∧ b.place = some y ∧ x ≤ y) ∧
    (a.gt b = true ↔ ∃ x y, a.place = some x ∧ b.place = some y ∧ y < x) ∧
    (a.ge b = true ↔ ∃ x y, a.place = some x ∧ b.place = some y ∧ y ≤ x) ∧
    (a.eq b = true ↔ ∃ x, a.place = some x ∧ b.place = some x) ∧
    (a.ne b = true ↔ ¬ a.eq b = true)) ∧
  (F64.fin false 0).eq (.fin true 0) = true ∧
  (∀ u v : F64, u = .nan ∨ v = .nan →
    ¬ (u.ge F64.zero = true ∧ v.ge F64.zero = true ∧ (u.add v).le F64.one = true)) ∧
  (∀ z : F64, z.gt (F64.ofBits 0xFFF0000000000000#64) = true ↔ z ≠ .nan ∧ z ≠ .inf true) ∧
  ∀ b : Dword, F64.nan.gt (F64.ofBits b) = false

/-! ## The whole machine -/

/-- R21, R22, R24, R25, R26, R35: who writes the registers and streams. No command writes A, SRC, the
view or the host's queue; R is written by six commands only, and by none that ends with an error; COFF,
SNK and HS only by the commands the rules name. -/
def Obligations.OnlyNamedCommandsWrite : Prop :=
  ∀ (i : Instr) (s t : State), exec i s = .next t →
    t.a = s.a ∧ t.src = s.src ∧ t.mesh = s.mesh ∧ t.host = s.host ∧
    (mnemonicOf i ∉ ["PACK", "UNPACK", "FROM24", "CRD", "CPK", "IGET"] → t.r = s.r) ∧
    (i.isCommand = true → t.err ≠ 0#8 → t.r = s.r) ∧
    (mnemonicOf i ∉ ["CRD", "CSK", "CAC", "IHDR", "IDEC", "RAW", "RUN"] → t.coff = s.coff) ∧
    (∃ f, t.snk = s.snk ++ f ∧ (mnemonicOf i ≠ "IENC" → f = [])) ∧
    (mnemonicOf i ∉ ["IHDR", "IDEC"] → t.hs = s.hs)

/-- R60, R340: who writes the images and the depth buffer: a command changes no slot but the one its word
names, IGET, IENC and ZCLR none, and the depth buffer only ZCLR, RENDER, and TRI and FACE with `zen`. -/
def Obligations.OnlyNamedBuffersChange : Prop :=
  ∀ (i : Instr) (s t : State), s.dec = none → exec i s = .next t →
    (∀ j, i ∉ [Instr.inew j, .iset j, .idec j, .line j] →
      (∀ tex zen, i ≠ .tri j tex zen ∧ i ≠ .face j tex zen ∧ i ≠ .render j tex) → t.img j = s.img j) ∧
    ((∀ k tex, i ≠ .zclr k ∧ i ≠ .render k tex ∧ i ≠ .tri k tex true ∧ i ≠ .face k tex true) →
      t.zb = s.zb)

/-- R301: what a failed command leaves. -/
def Obligations.ErrorsArePrecise : Prop :=
  ∀ (i : Instr) (s t : State), s.dec = none → exec i s = .next t → t.err ≠ 0#8 →
    (mnemonicOf i ∈ ["CRD", "CPK", "CSK", "CAC", "INEW", "IGET", "ISET", "IENC", "ZCLR", "LINE", "TRI",
        "FACE", "RENDER"] →
      t = s.errFrom t.err t.einfo0 t.einfo1 t.eoff) ∧
    (mnemonicOf i = "IHDR" →
      t = { s.errFrom t.err t.einfo0 t.einfo1 t.eoff with coff := t.coff }) ∧
    (mnemonicOf i = "IDEC" →
      t = { s.errFrom t.err t.einfo0 t.einfo1 t.eoff with coff := t.coff, hs := t.hs })

/-- R290, R291, R298, R300: the kinds a command can end with, by command; a command that ends without an
error leaves the whole report 0, and code 5 is never written. -/
def Obligations.KindsAreRaisedByTheirCommands : Prop :=
  ∀ (i : Instr) (s t : State), i.isCommand = true → exec i s = .next t →
    (t.err = 0#8 ∧ t.einfo0 = 0#64 ∧ t.einfo1 = 0#64 ∧ t.eoff = 0#64) ∨
    (t.err = 1#8 ∧ mnemonicOf i ∈ ["CRD", "CPK", "CSK", "CAC", "IHDR", "IDEC"]) ∨
    (t.err = 2#8 ∧ mnemonicOf i ∈ ["CAC", "IHDR", "IDEC"]) ∨
    (t.err = 3#8 ∧ mnemonicOf i ∈ ["IHDR", "IDEC"]) ∨
    (t.err = 4#8 ∧ mnemonicOf i ∈ ["IGET", "ISET"]) ∨
    (t.err = 6#8 ∧ mnemonicOf i = "IDEC") ∨
    (t.err = 7#8 ∧ (t.einfo0 = (cmdWord i).setWidth 64 ∧
      ((t.einfo1 = 1#64 ∧ mnemonicOf i ∈ ["IGET", "ISET", "IENC", "ZCLR", "LINE", "TRI", "FACE", "RENDER"]) ∨
       (t.einfo1 = 2#64 ∧ mnemonicOf i ∈ ["TRI", "FACE", "RENDER"]) ∨
       (t.einfo1 = 3#64 ∧ mnemonicOf i ∈ ["TRI", "FACE"]) ∨
       (t.einfo1 = 4#64 ∧ mnemonicOf i ∈ ["TRI", "FACE"]) ∨
       (t.einfo1 = 5#64 ∧ mnemonicOf i = "INEW"))))

/-- R303, R346: every command ends in a next state, in every state; RENDER in every state whose view meets
R70. -/
def Obligations.EveryCommandCompletes : Prop :=
  ∀ (i : Instr) (s : State), i.isCommand = true →
    (∀ k tex, i = .render k tex → s.mesh.ok tex.isSome) → ∃ t, exec i s = .next t

/-! ## Reset and host -/

/-- R40: the values the spec gives for reset, as the host reads them; A and R are unspecified. -/
def Obligations.ResetValues : Prop :=
  (∀ num ∈ List.range' 1 10 ++ List.range' 0x20 11 ++ List.range' 0x30 11 ++ List.range' 0x40 11,
    State.reset.readReg num = some 0#64) ∧
  State.reset.src = [] ∧ State.reset.snk = [] ∧
  (∀ k, (State.reset.img k).hdr.width.toNat * (State.reset.img k).hdr.height.toNat = 0 ∧
    (State.reset.img k).pix.cells = []) ∧
  State.reset.zb.w.toNat * State.reset.zb.h.toNat = 0 ∧ State.reset.zb.d.cells = []

/-- R339, R330: what each host action does to the machine. What the MESH view and the queue of actions do
is the model's own (logs 3, 4 and 18); A and R after reset are unspecified. -/
def Obligations.HostActionsEffects : Prop :=
  ∀ (s : State) (act : HostAction) (rest : List HostAction), s.dec = none → s.host = act :: rest →
    (∀ b, act = .loadSrc b → step s = .next { s with src := b, coff := 0, host := rest }) ∧
    (∀ (i : Fin 16) (v : Dword), act = .writeReg (0x50 + i) v →
      step s = .next { s with a := s.a.set i v, host := rest }) ∧
    (∀ w, act = .command w → step s = runCommand w { s with host := rest }) ∧
    (∀ num, act = .readReg num → num ∈ List.range' 1 10 ++ List.range' 0x20 11 ++ List.range' 0x30 11 ++
      List.range' 0x40 11 ++ List.range' 0x50 16 ++ List.range' 0x60 4 →
      step s = .next { s with host := rest }) ∧
    (act = .emptySnk → step s = .next { s with snk := [], host := rest }) ∧
    ((act = .readSnk ∨ act = .readDepth ∨ ∃ k, act = .readPix k) → step s = .next { s with host := rest }) ∧
    (∀ m, act = .setMesh m → step s = .next { s with mesh := m, host := rest }) ∧
    (act = .reset → ∃ a r, step s = .next { State.reset with a := a, r := r, mesh := s.mesh, host := rest })

/-- R28: the register map: what the host reads at each number, zero-extended to 64 bits; CMD cannot be
read. -/
def Obligations.RegisterMap : Prop :=
  ∀ s : State,
    (List.range' 0x00 11).map s.readReg =
      [none, some (s.err.setWidth 64), some s.einfo0, some s.einfo1, some s.eoff,
       some (BitVec.ofNat 64 s.coff), some (BitVec.ofNat 64 s.src.length),
       some (BitVec.ofNat 64 s.snk.length), some ((BitVec.ofBool s.zb.valid).setWidth 64),
       some (s.zb.w.setWidth 64), some (s.zb.h.setWidth 64)] ∧
    (∀ p ∈ [(0x20, s.img0.valid, s.img0.hdr), (0x30, s.img1.valid, s.img1.hdr),
        (0x40, s.hs.valid, s.hs.hdr)],
      (List.range' p.1 11).map s.readReg =
        [some ((BitVec.ofBool p.2.1).setWidth 64), some (p.2.2.idLength.setWidth 64),
         some (p.2.2.colorMapType.setWidth 64), some (p.2.2.imageType.setWidth 64),
         some (p.2.2.colorMapSpec.setWidth 64), some (p.2.2.xOrigin.setWidth 64),
         some (p.2.2.yOrigin.setWidth 64), some (p.2.2.width.setWidth 64),
         some (p.2.2.height.setWidth 64), some (p.2.2.bitsPerPixel.setWidth 64),
         some (p.2.2.imageDescriptor.setWidth 64)]) ∧
    (∀ i : Fin 16, s.readReg (0x50 + i) = some (s.a.get i)) ∧
    (∀ i : Fin 4, s.readReg (0x60 + i) = some (s.r.get i))

end
end

