-- ==== Sys2Proof/Laws/Cursor.lean ====
section
/-! SUPPORT. What the cursor primitives can do, said once each (42_cursor.md R172 to R179). -/

namespace Sys2Proof.Machine

/-! ## Sequencing -/

@[simp] theorem Scan.bind_ok {α β : Type} (a : α) (c : Nat) (f : α → Nat → Scan β) :
    (Scan.ok a c).bind f = f a c := rfl

@[simp] theorem Scan.bind_err {α β : Type} (e : Report) (c : Nat) (f : α → Nat → Scan β) :
    (Scan.err e c).bind f = .err e c := rfl

/-- A sequence succeeds iff both parts do. -/
theorem Scan.bind_eq_ok {α β : Type} {x : Scan α} {f : α → Nat → Scan β} {b : β} {c : Nat} :
    x.bind f = .ok b c ↔ ∃ a c', x = .ok a c' ∧ f a c' = .ok b c := by
  cases x <;> simp

/-- A sequence raises iff its first part does, or the first succeeds and the second raises. -/
theorem Scan.bind_eq_err {α β : Type} {x : Scan α} {f : α → Nat → Scan β} {e : Report} {c : Nat} :
    x.bind f = .err e c ↔ x = .err e c ∨ ∃ a c', x = .ok a c' ∧ f a c' = .err e c := by
  cases x <;> simp

/-- The offset a procedure leaves, whether it succeeds or raises. -/
def Scan.coff {α : Type} : Scan α → Nat
  | .ok _ c => c
  | .err _ c => c

/-- A procedure leaves the cursor between its start and the end of `src`, for a start inside `src`. -/
def Scan.Bounded {α : Type} (x : Scan α) (src : List Byte) (o : Nat) : Prop :=
  o ≤ src.length → o ≤ x.coff ∧ x.coff ≤ src.length

theorem Scan.bounded_ok {α : Type} {src : List Byte} {a : α} {c : Nat} : (Scan.ok a c).Bounded src c :=
  fun h => ⟨le_refl _, h⟩

theorem Scan.bounded_err {α : Type} {src : List Byte} {e : Report} {o c : Nat}
    (h : o ≤ src.length → o ≤ c ∧ c ≤ src.length) : (Scan.err e c : Scan α).Bounded src o := h

theorem Scan.bounded_bind {α β : Type} {src : List Byte} {x : Scan α} {f : α → Nat → Scan β} {o : Nat}
    (hx : x.Bounded src o) (hf : ∀ a c, x = .ok a c → (f a c).Bounded src c) :
    (x.bind f).Bounded src o := by
  intro ho
  cases x with
  | ok a c =>
    obtain ⟨h1, h2⟩ := hx ho
    obtain ⟨h3, h4⟩ := hf a c rfl h2
    exact ⟨le_trans h1 h3, h4⟩
  | err e c => exact hx ho

/-! ## The primitives -/

theorem cursorRead_eq_ok {src : List Byte} {n o c : Nat} {b : List Byte} :
    cursorRead src n o = .ok b c ↔ o + n ≤ src.length ∧ b = (src.drop o).take n ∧ c = o + n := by
  unfold cursorRead
  split
  · simp; omega
  · simp only [Scan.ok.injEq]
    exact ⟨fun h => ⟨by omega, h.1.symm, h.2.symm⟩, fun h => ⟨h.2.1.symm, h.2.2.symm⟩⟩

theorem cursorRead_eq_err {src : List Byte} {n o c : Nat} {e : Report} :
    cursorRead src n o = .err e c ↔ src.length < o + n ∧ e = outOfBounds src n o ∧ c = o := by
  unfold cursorRead
  split
  · next h => simp only [Scan.err.injEq]; exact ⟨fun g => ⟨h, g.1.symm, g.2.symm⟩, fun g => ⟨g.2.1.symm, g.2.2.symm⟩⟩
  · simp; omega

theorem cursorRead_of_le {src : List Byte} {n o : Nat} (h : o + n ≤ src.length) :
    cursorRead src n o = .ok ((src.drop o).take n) (o + n) := cursorRead_eq_ok.2 ⟨h, rfl, rfl⟩

theorem cursorRead_of_lt {src : List Byte} {n o : Nat} (h : src.length < o + n) :
    cursorRead src n o = .err (outOfBounds src n o) o := cursorRead_eq_err.2 ⟨h, rfl, rfl⟩

/-- A successful read returns exactly `n` bytes. -/
theorem length_of_cursorRead {src : List Byte} {n o c : Nat} {b : List Byte}
    (h : cursorRead src n o = .ok b c) : b.length = n := by
  obtain ⟨h1, rfl, -⟩ := cursorRead_eq_ok.1 h
  simp; omega

theorem cursorRead_bounded (src : List Byte) (n o : Nat) : (cursorRead src n o).Bounded src o := by
  intro ho
  unfold cursorRead
  split <;> simp [Scan.coff] <;> omega

theorem cursorPeek_of_le {src : List Byte} {n o : Nat} (h : o + n ≤ src.length) :
    cursorPeek src n o = .ok ((src.drop o).take n) o := by
  unfold cursorPeek
  rw [if_neg (by omega)]

theorem cursorPeek_of_lt {src : List Byte} {n o : Nat} (h : src.length < o + n) :
    cursorPeek src n o = .err (outOfBounds src n o) o := by
  unfold cursorPeek
  rw [if_pos h]

theorem cursorPeek_coff (src : List Byte) (n o : Nat) : (cursorPeek src n o).coff = o := by
  unfold cursorPeek
  split <;> rfl

theorem cursorSeek_bounded_coff {src : List Byte} {pos o : Nat} (h : o ≤ src.length) :
    (cursorSeek src pos o).coff ≤ src.length := by
  unfold cursorSeek
  split <;> simp [Scan.coff] <;> omega

/-- `accept` succeeds iff the bytes are there and equal the expected ones. -/
theorem cursorAccept_eq_ok {src e : List Byte} {o c : Nat} {u : Unit} :
    cursorAccept src e o = .ok u c ↔
      o + e.length ≤ src.length ∧ (src.drop o).take e.length = e ∧ c = o + e.length := by
  unfold cursorAccept
  rw [Scan.bind_eq_ok]
  constructor
  · rintro ⟨a, c', h1, h2⟩
    obtain ⟨h3, rfl, rfl⟩ := cursorRead_eq_ok.1 h1
    split at h2
    · next h => simp at h2; exact ⟨h3, h, h2.symm⟩
    · simp at h2
  · rintro ⟨h1, h2, rfl⟩
    exact ⟨_, _, cursorRead_of_le h1, by simp [h2]⟩

theorem cursorAccept_bounded (src e : List Byte) (o : Nat) : (cursorAccept src e o).Bounded src o := by
  intro ho
  unfold cursorAccept cursorRead
  split
  · simp [Scan.coff]; omega
  · simp only [Scan.bind_ok]
    split <;> simp [Scan.coff] <;> omega

/-- A failed `accept` leaves the cursor where it was. -/
theorem coff_of_cursorAccept_err {src e : List Byte} {o c : Nat} {r : Report}
    (h : cursorAccept src e o = .err r c) : c = o := by
  unfold cursorAccept at h
  rcases Scan.bind_eq_err.1 h with h | ⟨a, c', -, h⟩
  · exact (cursorRead_eq_err.1 h).2.2
  · split at h <;> simp at h
    exact h.2.symm

theorem cursorU8_eq_ok {src : List Byte} {o c : Nat} {b : Byte} :
    cursorU8 src o = .ok b c ↔ o < src.length ∧ b = src.getD o 0#8 ∧ c = o + 1 := by
  unfold cursorU8
  rw [Scan.bind_eq_ok]
  constructor
  · rintro ⟨a, c', h1, h2⟩
    obtain ⟨h3, rfl, rfl⟩ := cursorRead_eq_ok.1 h1
    simp at h2
    refine ⟨by omega, ?_, h2.2.symm⟩
    rw [← h2.1]
    simp [List.getD_eq_getElem?_getD]
  · rintro ⟨h1, rfl, rfl⟩
    refine ⟨_, _, cursorRead_of_le (by omega), ?_⟩
    simp [List.getD_eq_getElem?_getD]

theorem cursorU8_eq_err {src : List Byte} {o c : Nat} {e : Report} :
    cursorU8 src o = .err e c ↔ src.length ≤ o ∧ e = outOfBounds src 1 o ∧ c = o := by
  unfold cursorU8
  rw [Scan.bind_eq_err]
  simp [cursorRead_eq_err]

theorem cursorU8_bounded (src : List Byte) (o : Nat) : (cursorU8 src o).Bounded src o :=
  Scan.bounded_bind (cursorRead_bounded src 1 o) fun _ _ _ => Scan.bounded_ok

theorem cursorU16_eq_ok {src : List Byte} {o c : Nat} {v : Half} :
    cursorU16 src o = .ok v c ↔
      o + 2 ≤ src.length ∧ v = src.getD (o + 1) 0#8 ++ src.getD o 0#8 ∧ c = o + 2 := by
  unfold cursorU16
  rw [Scan.bind_eq_ok]
  constructor
  · rintro ⟨a, c', h1, h2⟩
    obtain ⟨h3, rfl, rfl⟩ := cursorRead_eq_ok.1 h1
    simp at h2
    refine ⟨h3, ?_, h2.2.symm⟩
    rw [← h2.1]
    simp [List.getD_eq_getElem?_getD]
  · rintro ⟨h1, rfl, rfl⟩
    refine ⟨_, _, cursorRead_of_le h1, ?_⟩
    simp [List.getD_eq_getElem?_getD]

theorem cursorU16_bounded (src : List Byte) (o : Nat) : (cursorU16 src o).Bounded src o :=
  Scan.bounded_bind (cursorRead_bounded src 2 o) fun _ _ _ => Scan.bounded_ok

/-! ## Byte strings in registers (20_memory.md R68) -/

@[simp] theorem length_bytesOfReg (v : Dword) (n : Nat) : (bytesOfReg v n).length = n := by
  simp [bytesOfReg]

/-- Byte `k` of a register is byte `k` of the string, for the eight that fit. -/
theorem extract_regbytes (b : List Byte) {k : Nat} (h : k < 8) :
    (regbytes b).extractLsb' (8 * k) 8 = b.getD k 0#8 := by
  induction b generalizing k with
  | nil => simp [regbytes]
  | cons x t ih =>
    apply BitVec.eq_of_getLsbD_eq
    intro i hi
    cases k with
    | zero =>
      simp [regbytes, hi]
      omega
    | succ k =>
      have h1 := congrArg (fun v : BitVec 8 => v.getLsbD i) (ih (k := k) (by omega))
      simp [hi] at h1
      have e1 : 8 * (k + 1) + i - 8 = 8 * k + i := by omega
      have e2 : ¬ 8 * (k + 1) + i < 8 := by omega
      have e3 : 8 * (k + 1) + i < 64 := by omega
      have e4 : x.getLsbD (8 * (k + 1) + i) = false := BitVec.getLsbD_of_ge _ _ (by omega)
      simp [regbytes, hi, e1, e2, e3, e4]
      rw [← BitVec.getLsbD_eq_getElem]
      exact h1

/-! ## Byte strings as numbers, byte 0 lowest (20_memory.md R65, R68) -/

/-- A byte string as a number, its first byte lowest. -/
def leNat : List Byte → Nat
  | [] => 0
  | b :: t => b.toNat + 256 * leNat t

theorem leNat_lt (l : List Byte) : leNat l < 256 ^ l.length := by
  induction l with
  | nil => simp [leNat]
  | cons b t ih =>
    have := b.isLt
    simp [leNat, pow_succ]
    omega

/-- `regbytes` is the low 64 bits of that number. -/
theorem regbytes_leNat (l : List Byte) : regbytes l = BitVec.ofNat 64 (leNat l) := by
  induction l with
  | nil => rfl
  | cons b t ih =>
    apply BitVec.eq_of_toNat_eq
    have hb := b.isLt
    simp only [regbytes, leNat, BitVec.toNat_or, BitVec.toNat_shiftLeft, BitVec.toNat_setWidth,
      BitVec.toNat_ofNat, ih]
    rw [Nat.mod_eq_of_lt (a := b.toNat) (by omega), Nat.shiftLeft_eq,
      show leNat t % 2 ^ 64 * 2 ^ 8 % 2 ^ 64 = leNat t % 2 ^ 56 * 2 ^ 8 by omega,
      show leNat t % 2 ^ 56 * 2 ^ 8 = (leNat t % 2 ^ 56) <<< 8 by rw [Nat.shiftLeft_eq],
      ← Nat.shiftLeft_add_eq_or_of_lt (by omega), Nat.shiftLeft_eq]
    omega

/-- The bytes of `SRC` from `o` on, as a number. -/
theorem leNat_take_drop (src : List Byte) (o n : Nat) (h : o + n ≤ src.length) :
    leNat ((src.drop o).take n) = leValue src o n := by
  induction n generalizing o with
  | zero => simp [leNat, leValue]
  | succ n ih =>
    rw [List.drop_eq_getElem_cons (by omega), List.take_succ_cons]
    simp only [leNat, leValue]
    rw [ih _ (by omega)]
    simp [List.getD_eq_getElem?_getD, List.getElem?_eq_getElem (show o < src.length by omega)]

/-- Strings of one length are equal when their numbers are. -/
theorem leNat_inj {l m : List Byte} (h : l.length = m.length) (e : leNat l = leNat m) : l = m := by
  induction l generalizing m with
  | nil => cases m <;> simp at h ⊢
  | cons b t ih =>
    cases m with
    | nil => simp at h
    | cons c u =>
      have hb := b.isLt
      have hc := c.isLt
      simp [leNat] at e h
      have : b.toNat = c.toNat := by omega
      rw [BitVec.eq_of_toNat_eq this, ih h (by omega)]

/-- The first `n` bytes of a register, as a number. -/
theorem leNat_bytesOfReg (v : Dword) (n : Nat) : leNat (bytesOfReg v n) = v.toNat % 2 ^ (8 * n) := by
  have key : ∀ n o : Nat, leNat ((List.range' o n).map fun k => v.extractLsb' (8 * k) 8)
      = (v.toNat / 2 ^ (8 * o)) % 2 ^ (8 * n) := by
    intro n
    induction n with
    | zero => intro o; simp [leNat, Nat.mod_one]
    | succ n ih =>
      intro o
      simp only [List.range'_succ, List.map_cons, leNat, ih]
      rw [BitVec.extractLsb'_toNat, Nat.shiftRight_eq_div_pow]
      have e1 : 2 ^ (8 * (o + 1)) = 2 ^ (8 * o) * 2 ^ 8 := by rw [← pow_add]; congr 1
      have e2 : 2 ^ (8 * (n + 1)) = 2 ^ 8 * 2 ^ (8 * n) := by rw [← pow_add]; congr 1; omega
      rw [e1, e2, ← Nat.div_div_eq_div_mul, Nat.mod_mul]
      rfl
  have := key n 0
  rw [← List.range_eq_range'] at this
  simpa [bytesOfReg] using this

end Sys2Proof.Machine
end

