-- ==== Sys2Proof/Laws/Memory.lean ====
section
/-! SUPPORT. Element-addressed memory: read after write, the canonical form, bounds, and the passage to
and from lists. -/

namespace Sys2Proof.Machine

variable {n : Nat} {fill : BitVec n}

/-! ## The listed cells -/

/-- The canonical form of a list of cells. -/
abbrev CellsWf (fill : BitVec n) (l : List (Nat × BitVec n)) : Prop :=
  l.Pairwise (fun x y => x.1 < y.1) ∧ ∀ c ∈ l, c.2 ≠ fill

theorem cellsRead_of_forall_ne {l : List (Nat × BitVec n)} {i : Nat} (h : ∀ c ∈ l, c.1 ≠ i) :
    cellsRead fill l i = fill := by
  induction l with
  | nil => rfl
  | cons c t ih =>
    have hc : i ≠ c.1 := fun e => h c (by simp) e.symm
    simp [cellsRead, hc, ih fun d hd => h d (by simp [hd])]

theorem cellsRead_cellsWrite_self {l : List (Nat × BitVec n)} (hs : l.Pairwise (fun x y => x.1 < y.1))
    (i : Nat) (v : BitVec n) : cellsRead fill (cellsWrite fill i v l) i = v := by
  induction l with
  | nil => by_cases hv : v = fill <;> simp [cellsWrite, cellsRead, hv]
  | cons c t ih =>
    obtain ⟨k, u⟩ := c
    obtain ⟨hk, ht⟩ := List.pairwise_cons.1 hs
    have absent : i ≤ k → cellsRead fill t i = fill := fun hik =>
      cellsRead_of_forall_ne fun d hd => by have := hk d hd; simp at this; omega
    unfold cellsWrite
    split
    · next hlt =>
      have hne : i ≠ k := by omega
      by_cases hv : v = fill <;> simp [cellsRead, hv, hne, absent (by omega)]
    · split
      · next heq =>
        by_cases hv : v = fill <;> simp [cellsRead, hv, heq]
        exact heq ▸ absent (by omega)
      · next hne => simp [cellsRead, hne, ih ht]

theorem cellsRead_cellsWrite_ne (l : List (Nat × BitVec n)) {i j : Nat} (v : BitVec n) (h : j ≠ i) :
    cellsRead fill (cellsWrite fill i v l) j = cellsRead fill l j := by
  induction l with
  | nil => by_cases hv : v = fill <;> simp [cellsWrite, cellsRead, hv, h]
  | cons c t ih =>
    obtain ⟨k, u⟩ := c
    unfold cellsWrite
    split
    · by_cases hv : v = fill <;> simp [cellsRead, hv, h]
    · split
      · next heq => by_cases hv : v = fill <;> simp [cellsRead, hv, h, ← heq]
      · by_cases hjk : j = k <;> simp [cellsRead, hjk, ih]

theorem mem_cellsWrite {l : List (Nat × BitVec n)} {i : Nat} {v : BitVec n} {c : Nat × BitVec n}
    (h : c ∈ cellsWrite fill i v l) : c ∈ l ∨ (c = (i, v) ∧ v ≠ fill) := by
  induction l with
  | nil =>
    by_cases hv : v = fill
    · simp [cellsWrite, hv] at h
    · simp [cellsWrite, hv] at h
      exact .inr ⟨h, hv⟩
  | cons d t ih =>
    obtain ⟨k, u⟩ := d
    unfold cellsWrite at h
    split at h
    · by_cases hv : v = fill
      · simp only [hv, ↓reduceIte] at h; exact .inl h
      · simp only [hv, ↓reduceIte, List.mem_cons] at h
        rcases h with h | h
        · exact .inr ⟨h, hv⟩
        · exact .inl (by simpa using h)
    · split at h
      · by_cases hv : v = fill
        · simp only [hv, ↓reduceIte] at h; exact .inl (by simp [h])
        · simp only [hv, ↓reduceIte, List.mem_cons] at h
          rcases h with h | h
          · exact .inr ⟨h, hv⟩
          · exact .inl (by simp [h])
      · rcases List.mem_cons.1 h with h | h
        · exact .inl (by simp [h])
        · rcases ih h with h | h
          · exact .inl (by simp [h])
          · exact .inr h

theorem cellsWrite_wf {l : List (Nat × BitVec n)} (h : CellsWf fill l) (i : Nat) (v : BitVec n) :
    CellsWf fill (cellsWrite fill i v l) := by
  refine ⟨?_, fun c hc => ?_⟩
  · have hs := h.1
    clear h
    induction l with
    | nil => by_cases hv : v = fill <;> simp [cellsWrite, hv]
    | cons d t ih =>
      obtain ⟨k, u⟩ := d
      obtain ⟨hk, ht⟩ := List.pairwise_cons.1 hs
      unfold cellsWrite
      split
      · next hlt =>
        by_cases hv : v = fill
        · simpa only [hv, ↓reduceIte] using hs
        · simp only [hv, ↓reduceIte]
          refine List.pairwise_cons.2 ⟨fun c hc => ?_, hs⟩
          rcases List.mem_cons.1 hc with rfl | hc
          · exact hlt
          · have := hk c hc; simp at this ⊢; omega
      · split
        · next heq =>
          by_cases hv : v = fill
          · simpa only [hv, ↓reduceIte] using ht
          · simp only [hv, ↓reduceIte]
            exact List.pairwise_cons.2 ⟨fun c hc => by have := hk c hc; simp at this ⊢; omega, ht⟩
        · next hlt hne =>
          refine List.pairwise_cons.2 ⟨fun c hc => ?_, ih ht⟩
          rcases mem_cellsWrite hc with hc | ⟨rfl, -⟩
          · exact hk c hc
          · simp; omega
  · rcases mem_cellsWrite hc with hc | ⟨rfl, hv⟩
    · exact h.2 c hc
    · exact hv

theorem mem_cellsOfList {vs : List (BitVec n)} {i : Nat} {c : Nat × BitVec n}
    (h : c ∈ cellsOfList fill i vs) : i ≤ c.1 ∧ c.1 < i + vs.length ∧ c.2 ≠ fill := by
  induction vs generalizing i with
  | nil => simp [cellsOfList] at h
  | cons v vs ih =>
    unfold cellsOfList at h
    split at h
    · obtain ⟨h1, h2, h3⟩ := ih h
      exact ⟨by omega, by simp; omega, h3⟩
    · next hv =>
      rcases List.mem_cons.1 h with rfl | h
      · exact ⟨le_refl _, by simp, hv⟩
      · obtain ⟨h1, h2, h3⟩ := ih h
        exact ⟨by omega, by simp; omega, h3⟩

theorem cellsOfList_pairwise (vs : List (BitVec n)) (i : Nat) :
    (cellsOfList fill i vs).Pairwise (fun x y => x.1 < y.1) := by
  induction vs generalizing i with
  | nil => simp [cellsOfList]
  | cons v vs ih =>
    unfold cellsOfList
    split
    · exact ih _
    · exact List.pairwise_cons.2 ⟨fun c hc => by have := (mem_cellsOfList hc).1; simp; omega, ih _⟩

theorem cellsRead_cellsOfList (vs : List (BitVec n)) (i j : Nat) :
    cellsRead fill (cellsOfList fill i vs) (i + j) = vs.getD j fill := by
  induction vs generalizing i j with
  | nil => simp [cellsOfList, cellsRead]
  | cons v vs ih =>
    unfold cellsOfList
    cases j with
    | zero =>
      split
      · next hv =>
        rw [cellsRead_of_forall_ne fun c hc => by have := (mem_cellsOfList hc).1; omega]
        simp [hv]
      · simp [cellsRead]
    | succ j =>
      have e : i + (j + 1) = (i + 1) + j := by omega
      split
      · rw [e, ih]; simp
      · have hne : i + (j + 1) ≠ i := by omega
        simp only [cellsRead, hne, ↓reduceIte]
        rw [e, ih]; simp

/-- Two canonical cell lists that read alike everywhere are equal. -/
theorem cells_ext {l m : List (Nat × BitVec n)} (hl : CellsWf fill l) (hm : CellsWf fill m)
    (h : ∀ i, cellsRead fill l i = cellsRead fill m i) : l = m := by
  induction l generalizing m with
  | nil =>
    cases m with
    | nil => rfl
    | cons c t =>
      have := h c.1
      simp only [cellsRead, ↓reduceIte] at this
      exact absurd this.symm (hm.2 c (by simp))
  | cons c t ih =>
    cases m with
    | nil =>
      have := h c.1
      simp only [cellsRead, ↓reduceIte] at this
      exact absurd this (hl.2 c (by simp))
    | cons d u =>
      obtain ⟨hk, ht⟩ := List.pairwise_cons.1 hl.1
      obtain ⟨hk', hu⟩ := List.pairwise_cons.1 hm.1
      have above : ∀ (w : List (Nat × BitVec n)) (k i : Nat), (∀ a ∈ w, k < a.1) → i ≤ k →
          cellsRead fill w i = fill := fun w k i hw hi =>
        cellsRead_of_forall_ne fun a ha => by have := hw a ha; omega
      have hcd : c.1 = d.1 := by
        rcases Nat.lt_trichotomy c.1 d.1 with hlt | heq | hlt
        · have := h c.1
          have hne : c.1 ≠ d.1 := by omega
          simp only [cellsRead, ↓reduceIte, hne] at this
          rw [above u d.1 c.1 hk' (by omega)] at this
          exact absurd this (hl.2 c (by simp))
        · exact heq
        · have := h d.1
          have hne : d.1 ≠ c.1 := by omega
          simp only [cellsRead, ↓reduceIte, hne] at this
          rw [above t c.1 d.1 hk (by omega)] at this
          exact absurd this.symm (hm.2 d (by simp))
      have hv : c.2 = d.2 := by
        have := h c.1
        simpa only [cellsRead, ↓reduceIte, ← hcd] using this
      have hcd' : c = d := Prod.ext hcd hv
      have htu : t = u := by
        refine ih ⟨ht, fun a ha => hl.2 a (by simp [ha])⟩ ⟨hu, fun a ha => hm.2 a (by simp [ha])⟩ fun i => ?_
        by_cases hi : i ≤ c.1
        · rw [above t c.1 i hk hi, above u d.1 i hk' (by omega)]
        · have hx := h i
          have h1 : i ≠ c.1 := by omega
          have h2 : i ≠ d.1 := by omega
          simpa only [cellsRead, h1, h2, ↓reduceIte] using hx
      rw [hcd', htu]

/-! ## Memory -/

namespace Memory

@[simp] theorem read_empty (i : Nat) : (Memory.empty : Memory n fill).read i = fill := rfl

theorem empty_wf : (Memory.empty : Memory n fill).wf := by simp [Memory.empty, Memory.wf]

theorem read_write_self {m : Memory n fill} (h : m.wf) (i : Nat) (v : BitVec n) :
    (m.write i v).read i = v := cellsRead_cellsWrite_self h.1 i v

theorem read_write_ne (m : Memory n fill) {i j : Nat} (v : BitVec n) (h : j ≠ i) :
    (m.write i v).read j = m.read j := cellsRead_cellsWrite_ne m.cells v h

theorem write_wf {m : Memory n fill} (h : m.wf) (i : Nat) (v : BitVec n) : (m.write i v).wf :=
  cellsWrite_wf h i v

theorem ofList_wf (vs : List (BitVec n)) : (Memory.ofList vs : Memory n fill).wf :=
  ⟨cellsOfList_pairwise vs 0, fun _ hc => (mem_cellsOfList hc).2.2⟩

theorem read_ofList (vs : List (BitVec n)) (i : Nat) :
    (Memory.ofList vs : Memory n fill).read i = vs.getD i fill := by
  simpa [Memory.read, Memory.ofList] using cellsRead_cellsOfList (fill := fill) vs 0 i

theorem ext_read {a b : Memory n fill} (ha : a.wf) (hb : b.wf) (h : ∀ i, a.read i = b.read i) : a = b := by
  obtain ⟨l⟩ := a
  obtain ⟨m⟩ := b
  exact congrArg Memory.mk (cells_ext ha hb h)

/-- All that a write does: one element, the canonical form, no index of its own beyond `i`. -/
theorem write_spec {m : Memory n fill} (h : m.wf) (i : Nat) (v : BitVec n) :
    (m.write i v).wf ∧ ∀ j, (m.write i v).read j = if j = i then v else m.read j :=
  ⟨write_wf h i v, fun j => by
    by_cases hj : j = i
    · simp [hj, read_write_self h]
    · simp [hj, read_write_ne m v hj]⟩

@[simp] theorem length_toList (m : Memory n fill) (len : Nat) : (m.toList len).length = len := by
  simp [Memory.toList]

theorem read_toList (m : Memory n fill) {len i : Nat} (h : i < len) :
    (m.toList len).getD i fill = m.read i := by simp [Memory.toList, h]

/-- An index outside every listed cell reads as the fill. -/
theorem read_of_within {m : Memory n fill} {len i : Nat} (h : ∀ c ∈ m.cells, c.1 < len) (hi : len ≤ i) :
    m.read i = fill := cellsRead_of_forall_ne fun c hc => by have := h c hc; omega

theorem write_within {m : Memory n fill} {len i : Nat} (h : ∀ c ∈ m.cells, c.1 < len) (hi : i < len)
    (v : BitVec n) : ∀ c ∈ (m.write i v).cells, c.1 < len := fun c hc => by
  rcases mem_cellsWrite hc with hc | ⟨rfl, -⟩
  · exact h c hc
  · exact hi

theorem ofList_within (vs : List (BitVec n)) :
    ∀ c ∈ (Memory.ofList vs : Memory n fill).cells, c.1 < vs.length := fun c hc => by
  have := (mem_cellsOfList hc).2.1
  omega

/-- A canonical memory inside `len` elements is the one its list of `len` elements describes. -/
theorem ofList_toList {m : Memory n fill} {len : Nat} (h : m.wf) (hw : ∀ c ∈ m.cells, c.1 < len) :
    (Memory.ofList (m.toList len) : Memory n fill) = m := by
  refine ext_read (ofList_wf _) h fun i => ?_
  rw [read_ofList]
  by_cases hi : i < len
  · exact read_toList m hi
  · rw [read_of_within hw (by omega), List.getD_eq_default _ _ (by simp; omega)]

end Memory

end Sys2Proof.Machine
end

