-- ==== Sys2Proof/Laws/State.lean ====
section
/-! SUPPORT. One lemma per field of State per update, so that no proof unfolds a record update. -/

namespace Sys2Proof.Machine

/-! ### clearReport -/

@[simp] theorem State.clearReport_a (s : State) : (s.clearReport).a = s.a := rfl
@[simp] theorem State.clearReport_r (s : State) : (s.clearReport).r = s.r := rfl
@[simp] theorem State.clearReport_coff (s : State) : (s.clearReport).coff = s.coff := rfl
@[simp] theorem State.clearReport_src (s : State) : (s.clearReport).src = s.src := rfl
@[simp] theorem State.clearReport_snk (s : State) : (s.clearReport).snk = s.snk := rfl
@[simp] theorem State.clearReport_err (s : State) : (s.clearReport).err = 0 := rfl
@[simp] theorem State.clearReport_einfo0 (s : State) : (s.clearReport).einfo0 = 0 := rfl
@[simp] theorem State.clearReport_einfo1 (s : State) : (s.clearReport).einfo1 = 0 := rfl
@[simp] theorem State.clearReport_eoff (s : State) : (s.clearReport).eoff = 0 := rfl
@[simp] theorem State.clearReport_img0 (s : State) : (s.clearReport).img0 = s.img0 := rfl
@[simp] theorem State.clearReport_img1 (s : State) : (s.clearReport).img1 = s.img1 := rfl
@[simp] theorem State.clearReport_hs (s : State) : (s.clearReport).hs = s.hs := rfl
@[simp] theorem State.clearReport_zb (s : State) : (s.clearReport).zb = s.zb := rfl
@[simp] theorem State.clearReport_mesh (s : State) : (s.clearReport).mesh = s.mesh := rfl
@[simp] theorem State.clearReport_dec (s : State) : (s.clearReport).dec = s.dec := rfl
@[simp] theorem State.clearReport_host (s : State) : (s.clearReport).host = s.host := rfl
@[simp] theorem State.clearReport_img (s : State) (j : Slot) : (s.clearReport).img j = s.img j := by cases j <;> rfl

/-! ### raise -/

@[simp] theorem State.raise_a (s : State) (e : Report) : (s.raise e).a = s.a := rfl
@[simp] theorem State.raise_r (s : State) (e : Report) : (s.raise e).r = s.r := rfl
@[simp] theorem State.raise_coff (s : State) (e : Report) : (s.raise e).coff = s.coff := rfl
@[simp] theorem State.raise_src (s : State) (e : Report) : (s.raise e).src = s.src := rfl
@[simp] theorem State.raise_snk (s : State) (e : Report) : (s.raise e).snk = s.snk := rfl
@[simp] theorem State.raise_err (s : State) (e : Report) : (s.raise e).err = e.kind.code := rfl
@[simp] theorem State.raise_einfo0 (s : State) (e : Report) : (s.raise e).einfo0 = e.info0 := rfl
@[simp] theorem State.raise_einfo1 (s : State) (e : Report) : (s.raise e).einfo1 = e.info1 := rfl
@[simp] theorem State.raise_eoff (s : State) (e : Report) : (s.raise e).eoff = e.off := rfl
@[simp] theorem State.raise_img0 (s : State) (e : Report) : (s.raise e).img0 = s.img0 := rfl
@[simp] theorem State.raise_img1 (s : State) (e : Report) : (s.raise e).img1 = s.img1 := rfl
@[simp] theorem State.raise_hs (s : State) (e : Report) : (s.raise e).hs = s.hs := rfl
@[simp] theorem State.raise_zb (s : State) (e : Report) : (s.raise e).zb = s.zb := rfl
@[simp] theorem State.raise_mesh (s : State) (e : Report) : (s.raise e).mesh = s.mesh := rfl
@[simp] theorem State.raise_dec (s : State) (e : Report) : (s.raise e).dec = s.dec := rfl
@[simp] theorem State.raise_host (s : State) (e : Report) : (s.raise e).host = s.host := rfl
@[simp] theorem State.raise_img (s : State) (e : Report) (j : Slot) : (s.raise e).img j = s.img j := by cases j <;> rfl

/-! ### raiseIllegal -/

@[simp] theorem State.raiseIllegal_a (s : State) (w : Word) (x : IllegalReason) : (s.raiseIllegal w x).a = s.a := rfl
@[simp] theorem State.raiseIllegal_r (s : State) (w : Word) (x : IllegalReason) : (s.raiseIllegal w x).r = s.r := rfl
@[simp] theorem State.raiseIllegal_coff (s : State) (w : Word) (x : IllegalReason) : (s.raiseIllegal w x).coff = s.coff := rfl
@[simp] theorem State.raiseIllegal_src (s : State) (w : Word) (x : IllegalReason) : (s.raiseIllegal w x).src = s.src := rfl
@[simp] theorem State.raiseIllegal_snk (s : State) (w : Word) (x : IllegalReason) : (s.raiseIllegal w x).snk = s.snk := rfl
@[simp] theorem State.raiseIllegal_err (s : State) (w : Word) (x : IllegalReason) : (s.raiseIllegal w x).err = 7#8 := rfl
@[simp] theorem State.raiseIllegal_einfo0 (s : State) (w : Word) (x : IllegalReason) : (s.raiseIllegal w x).einfo0 = w.setWidth 64 := rfl
@[simp] theorem State.raiseIllegal_einfo1 (s : State) (w : Word) (x : IllegalReason) : (s.raiseIllegal w x).einfo1 = x.code := rfl
@[simp] theorem State.raiseIllegal_eoff (s : State) (w : Word) (x : IllegalReason) : (s.raiseIllegal w x).eoff = BitVec.ofNat 64 s.coff := rfl
@[simp] theorem State.raiseIllegal_img0 (s : State) (w : Word) (x : IllegalReason) : (s.raiseIllegal w x).img0 = s.img0 := rfl
@[simp] theorem State.raiseIllegal_img1 (s : State) (w : Word) (x : IllegalReason) : (s.raiseIllegal w x).img1 = s.img1 := rfl
@[simp] theorem State.raiseIllegal_hs (s : State) (w : Word) (x : IllegalReason) : (s.raiseIllegal w x).hs = s.hs := rfl
@[simp] theorem State.raiseIllegal_zb (s : State) (w : Word) (x : IllegalReason) : (s.raiseIllegal w x).zb = s.zb := rfl
@[simp] theorem State.raiseIllegal_mesh (s : State) (w : Word) (x : IllegalReason) : (s.raiseIllegal w x).mesh = s.mesh := rfl
@[simp] theorem State.raiseIllegal_dec (s : State) (w : Word) (x : IllegalReason) : (s.raiseIllegal w x).dec = s.dec := rfl
@[simp] theorem State.raiseIllegal_host (s : State) (w : Word) (x : IllegalReason) : (s.raiseIllegal w x).host = s.host := rfl
@[simp] theorem State.raiseIllegal_img (s : State) (w : Word) (x : IllegalReason) (j : Slot) : (s.raiseIllegal w x).img j = s.img j := by cases j <;> rfl

/-! ### setCoff -/

@[simp] theorem State.setCoff_a (s : State) (v : Nat) : (s.setCoff v).a = s.a := rfl
@[simp] theorem State.setCoff_r (s : State) (v : Nat) : (s.setCoff v).r = s.r := rfl
@[simp] theorem State.setCoff_coff (s : State) (v : Nat) : (s.setCoff v).coff = v := rfl
@[simp] theorem State.setCoff_src (s : State) (v : Nat) : (s.setCoff v).src = s.src := rfl
@[simp] theorem State.setCoff_snk (s : State) (v : Nat) : (s.setCoff v).snk = s.snk := rfl
@[simp] theorem State.setCoff_err (s : State) (v : Nat) : (s.setCoff v).err = s.err := rfl
@[simp] theorem State.setCoff_einfo0 (s : State) (v : Nat) : (s.setCoff v).einfo0 = s.einfo0 := rfl
@[simp] theorem State.setCoff_einfo1 (s : State) (v : Nat) : (s.setCoff v).einfo1 = s.einfo1 := rfl
@[simp] theorem State.setCoff_eoff (s : State) (v : Nat) : (s.setCoff v).eoff = s.eoff := rfl
@[simp] theorem State.setCoff_img0 (s : State) (v : Nat) : (s.setCoff v).img0 = s.img0 := rfl
@[simp] theorem State.setCoff_img1 (s : State) (v : Nat) : (s.setCoff v).img1 = s.img1 := rfl
@[simp] theorem State.setCoff_hs (s : State) (v : Nat) : (s.setCoff v).hs = s.hs := rfl
@[simp] theorem State.setCoff_zb (s : State) (v : Nat) : (s.setCoff v).zb = s.zb := rfl
@[simp] theorem State.setCoff_mesh (s : State) (v : Nat) : (s.setCoff v).mesh = s.mesh := rfl
@[simp] theorem State.setCoff_dec (s : State) (v : Nat) : (s.setCoff v).dec = s.dec := rfl
@[simp] theorem State.setCoff_host (s : State) (v : Nat) : (s.setCoff v).host = s.host := rfl
@[simp] theorem State.setCoff_img (s : State) (v : Nat) (j : Slot) : (s.setCoff v).img j = s.img j := by cases j <;> rfl

/-! ### setR -/

@[simp] theorem State.setR_a (s : State) (i : Fin 4) (v : Dword) : (s.setR i v).a = s.a := rfl
@[simp] theorem State.setR_r (s : State) (i : Fin 4) (v : Dword) : (s.setR i v).r = s.r.set i v := rfl
@[simp] theorem State.setR_coff (s : State) (i : Fin 4) (v : Dword) : (s.setR i v).coff = s.coff := rfl
@[simp] theorem State.setR_src (s : State) (i : Fin 4) (v : Dword) : (s.setR i v).src = s.src := rfl
@[simp] theorem State.setR_snk (s : State) (i : Fin 4) (v : Dword) : (s.setR i v).snk = s.snk := rfl
@[simp] theorem State.setR_err (s : State) (i : Fin 4) (v : Dword) : (s.setR i v).err = s.err := rfl
@[simp] theorem State.setR_einfo0 (s : State) (i : Fin 4) (v : Dword) : (s.setR i v).einfo0 = s.einfo0 := rfl
@[simp] theorem State.setR_einfo1 (s : State) (i : Fin 4) (v : Dword) : (s.setR i v).einfo1 = s.einfo1 := rfl
@[simp] theorem State.setR_eoff (s : State) (i : Fin 4) (v : Dword) : (s.setR i v).eoff = s.eoff := rfl
@[simp] theorem State.setR_img0 (s : State) (i : Fin 4) (v : Dword) : (s.setR i v).img0 = s.img0 := rfl
@[simp] theorem State.setR_img1 (s : State) (i : Fin 4) (v : Dword) : (s.setR i v).img1 = s.img1 := rfl
@[simp] theorem State.setR_hs (s : State) (i : Fin 4) (v : Dword) : (s.setR i v).hs = s.hs := rfl
@[simp] theorem State.setR_zb (s : State) (i : Fin 4) (v : Dword) : (s.setR i v).zb = s.zb := rfl
@[simp] theorem State.setR_mesh (s : State) (i : Fin 4) (v : Dword) : (s.setR i v).mesh = s.mesh := rfl
@[simp] theorem State.setR_dec (s : State) (i : Fin 4) (v : Dword) : (s.setR i v).dec = s.dec := rfl
@[simp] theorem State.setR_host (s : State) (i : Fin 4) (v : Dword) : (s.setR i v).host = s.host := rfl
@[simp] theorem State.setR_img (s : State) (i : Fin 4) (v : Dword) (j : Slot) : (s.setR i v).img j = s.img j := by cases j <;> rfl

/-! ### setA -/

@[simp] theorem State.setA_a (s : State) (i : Fin 16) (v : Dword) : (s.setA i v).a = s.a.set i v := rfl
@[simp] theorem State.setA_r (s : State) (i : Fin 16) (v : Dword) : (s.setA i v).r = s.r := rfl
@[simp] theorem State.setA_coff (s : State) (i : Fin 16) (v : Dword) : (s.setA i v).coff = s.coff := rfl
@[simp] theorem State.setA_src (s : State) (i : Fin 16) (v : Dword) : (s.setA i v).src = s.src := rfl
@[simp] theorem State.setA_snk (s : State) (i : Fin 16) (v : Dword) : (s.setA i v).snk = s.snk := rfl
@[simp] theorem State.setA_err (s : State) (i : Fin 16) (v : Dword) : (s.setA i v).err = s.err := rfl
@[simp] theorem State.setA_einfo0 (s : State) (i : Fin 16) (v : Dword) : (s.setA i v).einfo0 = s.einfo0 := rfl
@[simp] theorem State.setA_einfo1 (s : State) (i : Fin 16) (v : Dword) : (s.setA i v).einfo1 = s.einfo1 := rfl
@[simp] theorem State.setA_eoff (s : State) (i : Fin 16) (v : Dword) : (s.setA i v).eoff = s.eoff := rfl
@[simp] theorem State.setA_img0 (s : State) (i : Fin 16) (v : Dword) : (s.setA i v).img0 = s.img0 := rfl
@[simp] theorem State.setA_img1 (s : State) (i : Fin 16) (v : Dword) : (s.setA i v).img1 = s.img1 := rfl
@[simp] theorem State.setA_hs (s : State) (i : Fin 16) (v : Dword) : (s.setA i v).hs = s.hs := rfl
@[simp] theorem State.setA_zb (s : State) (i : Fin 16) (v : Dword) : (s.setA i v).zb = s.zb := rfl
@[simp] theorem State.setA_mesh (s : State) (i : Fin 16) (v : Dword) : (s.setA i v).mesh = s.mesh := rfl
@[simp] theorem State.setA_dec (s : State) (i : Fin 16) (v : Dword) : (s.setA i v).dec = s.dec := rfl
@[simp] theorem State.setA_host (s : State) (i : Fin 16) (v : Dword) : (s.setA i v).host = s.host := rfl
@[simp] theorem State.setA_img (s : State) (i : Fin 16) (v : Dword) (j : Slot) : (s.setA i v).img j = s.img j := by cases j <;> rfl

/-! ### setHs -/

@[simp] theorem State.setHs_a (s : State) (h : Header) : (s.setHs h).a = s.a := rfl
@[simp] theorem State.setHs_r (s : State) (h : Header) : (s.setHs h).r = s.r := rfl
@[simp] theorem State.setHs_coff (s : State) (h : Header) : (s.setHs h).coff = s.coff := rfl
@[simp] theorem State.setHs_src (s : State) (h : Header) : (s.setHs h).src = s.src := rfl
@[simp] theorem State.setHs_snk (s : State) (h : Header) : (s.setHs h).snk = s.snk := rfl
@[simp] theorem State.setHs_err (s : State) (h : Header) : (s.setHs h).err = s.err := rfl
@[simp] theorem State.setHs_einfo0 (s : State) (h : Header) : (s.setHs h).einfo0 = s.einfo0 := rfl
@[simp] theorem State.setHs_einfo1 (s : State) (h : Header) : (s.setHs h).einfo1 = s.einfo1 := rfl
@[simp] theorem State.setHs_eoff (s : State) (h : Header) : (s.setHs h).eoff = s.eoff := rfl
@[simp] theorem State.setHs_img0 (s : State) (h : Header) : (s.setHs h).img0 = s.img0 := rfl
@[simp] theorem State.setHs_img1 (s : State) (h : Header) : (s.setHs h).img1 = s.img1 := rfl
@[simp] theorem State.setHs_hs (s : State) (h : Header) : (s.setHs h).hs = { valid := true, hdr := h } := rfl
@[simp] theorem State.setHs_zb (s : State) (h : Header) : (s.setHs h).zb = s.zb := rfl
@[simp] theorem State.setHs_mesh (s : State) (h : Header) : (s.setHs h).mesh = s.mesh := rfl
@[simp] theorem State.setHs_dec (s : State) (h : Header) : (s.setHs h).dec = s.dec := rfl
@[simp] theorem State.setHs_host (s : State) (h : Header) : (s.setHs h).host = s.host := rfl
@[simp] theorem State.setHs_img (s : State) (h : Header) (j : Slot) : (s.setHs h).img j = s.img j := by cases j <;> rfl

/-! ### setZb -/

@[simp] theorem State.setZb_a (s : State) (z : DepthBuffer) : (s.setZb z).a = s.a := rfl
@[simp] theorem State.setZb_r (s : State) (z : DepthBuffer) : (s.setZb z).r = s.r := rfl
@[simp] theorem State.setZb_coff (s : State) (z : DepthBuffer) : (s.setZb z).coff = s.coff := rfl
@[simp] theorem State.setZb_src (s : State) (z : DepthBuffer) : (s.setZb z).src = s.src := rfl
@[simp] theorem State.setZb_snk (s : State) (z : DepthBuffer) : (s.setZb z).snk = s.snk := rfl
@[simp] theorem State.setZb_err (s : State) (z : DepthBuffer) : (s.setZb z).err = s.err := rfl
@[simp] theorem State.setZb_einfo0 (s : State) (z : DepthBuffer) : (s.setZb z).einfo0 = s.einfo0 := rfl
@[simp] theorem State.setZb_einfo1 (s : State) (z : DepthBuffer) : (s.setZb z).einfo1 = s.einfo1 := rfl
@[simp] theorem State.setZb_eoff (s : State) (z : DepthBuffer) : (s.setZb z).eoff = s.eoff := rfl
@[simp] theorem State.setZb_img0 (s : State) (z : DepthBuffer) : (s.setZb z).img0 = s.img0 := rfl
@[simp] theorem State.setZb_img1 (s : State) (z : DepthBuffer) : (s.setZb z).img1 = s.img1 := rfl
@[simp] theorem State.setZb_hs (s : State) (z : DepthBuffer) : (s.setZb z).hs = s.hs := rfl
@[simp] theorem State.setZb_zb (s : State) (z : DepthBuffer) : (s.setZb z).zb = z := rfl
@[simp] theorem State.setZb_mesh (s : State) (z : DepthBuffer) : (s.setZb z).mesh = s.mesh := rfl
@[simp] theorem State.setZb_dec (s : State) (z : DepthBuffer) : (s.setZb z).dec = s.dec := rfl
@[simp] theorem State.setZb_host (s : State) (z : DepthBuffer) : (s.setZb z).host = s.host := rfl
@[simp] theorem State.setZb_img (s : State) (z : DepthBuffer) (j : Slot) : (s.setZb z).img j = s.img j := by cases j <;> rfl

/-! ### snkAppend -/

@[simp] theorem State.snkAppend_a (s : State) (b : List Byte) : (s.snkAppend b).a = s.a := rfl
@[simp] theorem State.snkAppend_r (s : State) (b : List Byte) : (s.snkAppend b).r = s.r := rfl
@[simp] theorem State.snkAppend_coff (s : State) (b : List Byte) : (s.snkAppend b).coff = s.coff := rfl
@[simp] theorem State.snkAppend_src (s : State) (b : List Byte) : (s.snkAppend b).src = s.src := rfl
@[simp] theorem State.snkAppend_snk (s : State) (b : List Byte) : (s.snkAppend b).snk = s.snk ++ b := rfl
@[simp] theorem State.snkAppend_err (s : State) (b : List Byte) : (s.snkAppend b).err = s.err := rfl
@[simp] theorem State.snkAppend_einfo0 (s : State) (b : List Byte) : (s.snkAppend b).einfo0 = s.einfo0 := rfl
@[simp] theorem State.snkAppend_einfo1 (s : State) (b : List Byte) : (s.snkAppend b).einfo1 = s.einfo1 := rfl
@[simp] theorem State.snkAppend_eoff (s : State) (b : List Byte) : (s.snkAppend b).eoff = s.eoff := rfl
@[simp] theorem State.snkAppend_img0 (s : State) (b : List Byte) : (s.snkAppend b).img0 = s.img0 := rfl
@[simp] theorem State.snkAppend_img1 (s : State) (b : List Byte) : (s.snkAppend b).img1 = s.img1 := rfl
@[simp] theorem State.snkAppend_hs (s : State) (b : List Byte) : (s.snkAppend b).hs = s.hs := rfl
@[simp] theorem State.snkAppend_zb (s : State) (b : List Byte) : (s.snkAppend b).zb = s.zb := rfl
@[simp] theorem State.snkAppend_mesh (s : State) (b : List Byte) : (s.snkAppend b).mesh = s.mesh := rfl
@[simp] theorem State.snkAppend_dec (s : State) (b : List Byte) : (s.snkAppend b).dec = s.dec := rfl
@[simp] theorem State.snkAppend_host (s : State) (b : List Byte) : (s.snkAppend b).host = s.host := rfl
@[simp] theorem State.snkAppend_img (s : State) (b : List Byte) (j : Slot) : (s.snkAppend b).img j = s.img j := by cases j <;> rfl

/-! ### setDec -/

@[simp] theorem State.setDec_a (s : State) (d : Option Decoding) : (s.setDec d).a = s.a := rfl
@[simp] theorem State.setDec_r (s : State) (d : Option Decoding) : (s.setDec d).r = s.r := rfl
@[simp] theorem State.setDec_coff (s : State) (d : Option Decoding) : (s.setDec d).coff = s.coff := rfl
@[simp] theorem State.setDec_src (s : State) (d : Option Decoding) : (s.setDec d).src = s.src := rfl
@[simp] theorem State.setDec_snk (s : State) (d : Option Decoding) : (s.setDec d).snk = s.snk := rfl
@[simp] theorem State.setDec_err (s : State) (d : Option Decoding) : (s.setDec d).err = s.err := rfl
@[simp] theorem State.setDec_einfo0 (s : State) (d : Option Decoding) : (s.setDec d).einfo0 = s.einfo0 := rfl
@[simp] theorem State.setDec_einfo1 (s : State) (d : Option Decoding) : (s.setDec d).einfo1 = s.einfo1 := rfl
@[simp] theorem State.setDec_eoff (s : State) (d : Option Decoding) : (s.setDec d).eoff = s.eoff := rfl
@[simp] theorem State.setDec_img0 (s : State) (d : Option Decoding) : (s.setDec d).img0 = s.img0 := rfl
@[simp] theorem State.setDec_img1 (s : State) (d : Option Decoding) : (s.setDec d).img1 = s.img1 := rfl
@[simp] theorem State.setDec_hs (s : State) (d : Option Decoding) : (s.setDec d).hs = s.hs := rfl
@[simp] theorem State.setDec_zb (s : State) (d : Option Decoding) : (s.setDec d).zb = s.zb := rfl
@[simp] theorem State.setDec_mesh (s : State) (d : Option Decoding) : (s.setDec d).mesh = s.mesh := rfl
@[simp] theorem State.setDec_dec (s : State) (d : Option Decoding) : (s.setDec d).dec = d := rfl
@[simp] theorem State.setDec_host (s : State) (d : Option Decoding) : (s.setDec d).host = s.host := rfl
@[simp] theorem State.setDec_img (s : State) (d : Option Decoding) (j : Slot) : (s.setDec d).img j = s.img j := by cases j <;> rfl

/-! ### setImg -/

@[simp] theorem State.setImg_a (s : State) (k : Slot) (im : Image) : (s.setImg k im).a = s.a := rfl
@[simp] theorem State.setImg_r (s : State) (k : Slot) (im : Image) : (s.setImg k im).r = s.r := rfl
@[simp] theorem State.setImg_coff (s : State) (k : Slot) (im : Image) : (s.setImg k im).coff = s.coff := rfl
@[simp] theorem State.setImg_src (s : State) (k : Slot) (im : Image) : (s.setImg k im).src = s.src := rfl
@[simp] theorem State.setImg_snk (s : State) (k : Slot) (im : Image) : (s.setImg k im).snk = s.snk := rfl
@[simp] theorem State.setImg_err (s : State) (k : Slot) (im : Image) : (s.setImg k im).err = s.err := rfl
@[simp] theorem State.setImg_einfo0 (s : State) (k : Slot) (im : Image) : (s.setImg k im).einfo0 = s.einfo0 := rfl
@[simp] theorem State.setImg_einfo1 (s : State) (k : Slot) (im : Image) : (s.setImg k im).einfo1 = s.einfo1 := rfl
@[simp] theorem State.setImg_eoff (s : State) (k : Slot) (im : Image) : (s.setImg k im).eoff = s.eoff := rfl
@[simp] theorem State.setImg_hs (s : State) (k : Slot) (im : Image) : (s.setImg k im).hs = s.hs := rfl
@[simp] theorem State.setImg_zb (s : State) (k : Slot) (im : Image) : (s.setImg k im).zb = s.zb := rfl
@[simp] theorem State.setImg_mesh (s : State) (k : Slot) (im : Image) : (s.setImg k im).mesh = s.mesh := rfl
@[simp] theorem State.setImg_dec (s : State) (k : Slot) (im : Image) : (s.setImg k im).dec = s.dec := rfl
@[simp] theorem State.setImg_host (s : State) (k : Slot) (im : Image) : (s.setImg k im).host = s.host := rfl

/-! ### setPix -/

@[simp] theorem State.setPix_a (s : State) (k : Slot) (m : PixMem) : (s.setPix k m).a = s.a := rfl
@[simp] theorem State.setPix_r (s : State) (k : Slot) (m : PixMem) : (s.setPix k m).r = s.r := rfl
@[simp] theorem State.setPix_coff (s : State) (k : Slot) (m : PixMem) : (s.setPix k m).coff = s.coff := rfl
@[simp] theorem State.setPix_src (s : State) (k : Slot) (m : PixMem) : (s.setPix k m).src = s.src := rfl
@[simp] theorem State.setPix_snk (s : State) (k : Slot) (m : PixMem) : (s.setPix k m).snk = s.snk := rfl
@[simp] theorem State.setPix_err (s : State) (k : Slot) (m : PixMem) : (s.setPix k m).err = s.err := rfl
@[simp] theorem State.setPix_einfo0 (s : State) (k : Slot) (m : PixMem) : (s.setPix k m).einfo0 = s.einfo0 := rfl
@[simp] theorem State.setPix_einfo1 (s : State) (k : Slot) (m : PixMem) : (s.setPix k m).einfo1 = s.einfo1 := rfl
@[simp] theorem State.setPix_eoff (s : State) (k : Slot) (m : PixMem) : (s.setPix k m).eoff = s.eoff := rfl
@[simp] theorem State.setPix_hs (s : State) (k : Slot) (m : PixMem) : (s.setPix k m).hs = s.hs := rfl
@[simp] theorem State.setPix_zb (s : State) (k : Slot) (m : PixMem) : (s.setPix k m).zb = s.zb := rfl
@[simp] theorem State.setPix_mesh (s : State) (k : Slot) (m : PixMem) : (s.setPix k m).mesh = s.mesh := rfl
@[simp] theorem State.setPix_dec (s : State) (k : Slot) (m : PixMem) : (s.setPix k m).dec = s.dec := rfl
@[simp] theorem State.setPix_host (s : State) (k : Slot) (m : PixMem) : (s.setPix k m).host = s.host := rfl

/-! ### scanFailed -/

@[simp] theorem State.scanFailed_a (s : State) (e : Report) (c : Nat) : (s.scanFailed e c).a = s.a := rfl
@[simp] theorem State.scanFailed_r (s : State) (e : Report) (c : Nat) : (s.scanFailed e c).r = s.r := rfl
@[simp] theorem State.scanFailed_coff (s : State) (e : Report) (c : Nat) : (s.scanFailed e c).coff = c := rfl
@[simp] theorem State.scanFailed_src (s : State) (e : Report) (c : Nat) : (s.scanFailed e c).src = s.src := rfl
@[simp] theorem State.scanFailed_snk (s : State) (e : Report) (c : Nat) : (s.scanFailed e c).snk = s.snk := rfl
@[simp] theorem State.scanFailed_err (s : State) (e : Report) (c : Nat) : (s.scanFailed e c).err = e.kind.code := rfl
@[simp] theorem State.scanFailed_einfo0 (s : State) (e : Report) (c : Nat) : (s.scanFailed e c).einfo0 = e.info0 := rfl
@[simp] theorem State.scanFailed_einfo1 (s : State) (e : Report) (c : Nat) : (s.scanFailed e c).einfo1 = e.info1 := rfl
@[simp] theorem State.scanFailed_eoff (s : State) (e : Report) (c : Nat) : (s.scanFailed e c).eoff = e.off := rfl
@[simp] theorem State.scanFailed_img0 (s : State) (e : Report) (c : Nat) : (s.scanFailed e c).img0 = s.img0 := rfl
@[simp] theorem State.scanFailed_img1 (s : State) (e : Report) (c : Nat) : (s.scanFailed e c).img1 = s.img1 := rfl
@[simp] theorem State.scanFailed_hs (s : State) (e : Report) (c : Nat) : (s.scanFailed e c).hs = s.hs := rfl
@[simp] theorem State.scanFailed_zb (s : State) (e : Report) (c : Nat) : (s.scanFailed e c).zb = s.zb := rfl
@[simp] theorem State.scanFailed_mesh (s : State) (e : Report) (c : Nat) : (s.scanFailed e c).mesh = s.mesh := rfl
@[simp] theorem State.scanFailed_dec (s : State) (e : Report) (c : Nat) : (s.scanFailed e c).dec = s.dec := rfl
@[simp] theorem State.scanFailed_host (s : State) (e : Report) (c : Nat) : (s.scanFailed e c).host = s.host := rfl
@[simp] theorem State.scanFailed_img (s : State) (e : Report) (c : Nat) (j : Slot) : (s.scanFailed e c).img j = s.img j := by cases j <;> rfl

/-! ### setBytes -/

@[simp] theorem State.setBytes_a (s : State) (b : List Byte) (n : BitVec 4) : (s.setBytes b n).a = s.a := rfl
@[simp] theorem State.setBytes_r (s : State) (b : List Byte) (n : BitVec 4) : (s.setBytes b n).r = (s.r.set 0 (regbytes b)).set 1 (n.setWidth 64) := rfl
@[simp] theorem State.setBytes_coff (s : State) (b : List Byte) (n : BitVec 4) : (s.setBytes b n).coff = s.coff := rfl
@[simp] theorem State.setBytes_src (s : State) (b : List Byte) (n : BitVec 4) : (s.setBytes b n).src = s.src := rfl
@[simp] theorem State.setBytes_snk (s : State) (b : List Byte) (n : BitVec 4) : (s.setBytes b n).snk = s.snk := rfl
@[simp] theorem State.setBytes_err (s : State) (b : List Byte) (n : BitVec 4) : (s.setBytes b n).err = s.err := rfl
@[simp] theorem State.setBytes_einfo0 (s : State) (b : List Byte) (n : BitVec 4) : (s.setBytes b n).einfo0 = s.einfo0 := rfl
@[simp] theorem State.setBytes_einfo1 (s : State) (b : List Byte) (n : BitVec 4) : (s.setBytes b n).einfo1 = s.einfo1 := rfl
@[simp] theorem State.setBytes_eoff (s : State) (b : List Byte) (n : BitVec 4) : (s.setBytes b n).eoff = s.eoff := rfl
@[simp] theorem State.setBytes_img0 (s : State) (b : List Byte) (n : BitVec 4) : (s.setBytes b n).img0 = s.img0 := rfl
@[simp] theorem State.setBytes_img1 (s : State) (b : List Byte) (n : BitVec 4) : (s.setBytes b n).img1 = s.img1 := rfl
@[simp] theorem State.setBytes_hs (s : State) (b : List Byte) (n : BitVec 4) : (s.setBytes b n).hs = s.hs := rfl
@[simp] theorem State.setBytes_zb (s : State) (b : List Byte) (n : BitVec 4) : (s.setBytes b n).zb = s.zb := rfl
@[simp] theorem State.setBytes_mesh (s : State) (b : List Byte) (n : BitVec 4) : (s.setBytes b n).mesh = s.mesh := rfl
@[simp] theorem State.setBytes_dec (s : State) (b : List Byte) (n : BitVec 4) : (s.setBytes b n).dec = s.dec := rfl
@[simp] theorem State.setBytes_host (s : State) (b : List Byte) (n : BitVec 4) : (s.setBytes b n).host = s.host := rfl
@[simp] theorem State.setBytes_img (s : State) (b : List Byte) (n : BitVec 4) (j : Slot) : (s.setBytes b n).img j = s.img j := by cases j <;> rfl

/-! ### commitImage -/

@[simp] theorem State.commitImage_a (s : State) (k : Slot) (h : Header) (p : List Word) : (s.commitImage k h p).a = s.a := rfl
@[simp] theorem State.commitImage_r (s : State) (k : Slot) (h : Header) (p : List Word) : (s.commitImage k h p).r = s.r := rfl
@[simp] theorem State.commitImage_coff (s : State) (k : Slot) (h : Header) (p : List Word) : (s.commitImage k h p).coff = s.coff := rfl
@[simp] theorem State.commitImage_src (s : State) (k : Slot) (h : Header) (p : List Word) : (s.commitImage k h p).src = s.src := rfl
@[simp] theorem State.commitImage_snk (s : State) (k : Slot) (h : Header) (p : List Word) : (s.commitImage k h p).snk = s.snk := rfl
@[simp] theorem State.commitImage_err (s : State) (k : Slot) (h : Header) (p : List Word) : (s.commitImage k h p).err = s.err := rfl
@[simp] theorem State.commitImage_einfo0 (s : State) (k : Slot) (h : Header) (p : List Word) : (s.commitImage k h p).einfo0 = s.einfo0 := rfl
@[simp] theorem State.commitImage_einfo1 (s : State) (k : Slot) (h : Header) (p : List Word) : (s.commitImage k h p).einfo1 = s.einfo1 := rfl
@[simp] theorem State.commitImage_eoff (s : State) (k : Slot) (h : Header) (p : List Word) : (s.commitImage k h p).eoff = s.eoff := rfl
@[simp] theorem State.commitImage_hs (s : State) (k : Slot) (h : Header) (p : List Word) : (s.commitImage k h p).hs = s.hs := rfl
@[simp] theorem State.commitImage_zb (s : State) (k : Slot) (h : Header) (p : List Word) : (s.commitImage k h p).zb = s.zb := rfl
@[simp] theorem State.commitImage_mesh (s : State) (k : Slot) (h : Header) (p : List Word) : (s.commitImage k h p).mesh = s.mesh := rfl
@[simp] theorem State.commitImage_dec (s : State) (k : Slot) (h : Header) (p : List Word) : (s.commitImage k h p).dec = s.dec := rfl
@[simp] theorem State.commitImage_host (s : State) (k : Slot) (h : Header) (p : List Word) : (s.commitImage k h p).host = s.host := rfl

/-! ### abortDecode -/

@[simp] theorem State.abortDecode_a (s : State) (e : Report) (c : Nat) : (s.abortDecode e c).a = s.a := rfl
@[simp] theorem State.abortDecode_r (s : State) (e : Report) (c : Nat) : (s.abortDecode e c).r = s.r := rfl
@[simp] theorem State.abortDecode_coff (s : State) (e : Report) (c : Nat) : (s.abortDecode e c).coff = c := rfl
@[simp] theorem State.abortDecode_src (s : State) (e : Report) (c : Nat) : (s.abortDecode e c).src = s.src := rfl
@[simp] theorem State.abortDecode_snk (s : State) (e : Report) (c : Nat) : (s.abortDecode e c).snk = s.snk := rfl
@[simp] theorem State.abortDecode_err (s : State) (e : Report) (c : Nat) : (s.abortDecode e c).err = e.kind.code := rfl
@[simp] theorem State.abortDecode_einfo0 (s : State) (e : Report) (c : Nat) : (s.abortDecode e c).einfo0 = e.info0 := rfl
@[simp] theorem State.abortDecode_einfo1 (s : State) (e : Report) (c : Nat) : (s.abortDecode e c).einfo1 = e.info1 := rfl
@[simp] theorem State.abortDecode_eoff (s : State) (e : Report) (c : Nat) : (s.abortDecode e c).eoff = e.off := rfl
@[simp] theorem State.abortDecode_img0 (s : State) (e : Report) (c : Nat) : (s.abortDecode e c).img0 = s.img0 := rfl
@[simp] theorem State.abortDecode_img1 (s : State) (e : Report) (c : Nat) : (s.abortDecode e c).img1 = s.img1 := rfl
@[simp] theorem State.abortDecode_hs (s : State) (e : Report) (c : Nat) : (s.abortDecode e c).hs = s.hs := rfl
@[simp] theorem State.abortDecode_zb (s : State) (e : Report) (c : Nat) : (s.abortDecode e c).zb = s.zb := rfl
@[simp] theorem State.abortDecode_mesh (s : State) (e : Report) (c : Nat) : (s.abortDecode e c).mesh = s.mesh := rfl
@[simp] theorem State.abortDecode_dec (s : State) (e : Report) (c : Nat) : (s.abortDecode e c).dec = none := rfl
@[simp] theorem State.abortDecode_host (s : State) (e : Report) (c : Nat) : (s.abortDecode e c).host = s.host := rfl
@[simp] theorem State.abortDecode_img (s : State) (e : Report) (c : Nat) (j : Slot) : (s.abortDecode e c).img j = s.img j := by cases j <;> rfl

/-! ### setCanvas -/

@[simp] theorem State.setCanvas_a (s : State) (k : Slot) (c : Canvas) : (s.setCanvas k c).a = s.a := rfl
@[simp] theorem State.setCanvas_r (s : State) (k : Slot) (c : Canvas) : (s.setCanvas k c).r = s.r := rfl
@[simp] theorem State.setCanvas_coff (s : State) (k : Slot) (c : Canvas) : (s.setCanvas k c).coff = s.coff := rfl
@[simp] theorem State.setCanvas_src (s : State) (k : Slot) (c : Canvas) : (s.setCanvas k c).src = s.src := rfl
@[simp] theorem State.setCanvas_snk (s : State) (k : Slot) (c : Canvas) : (s.setCanvas k c).snk = s.snk := rfl
@[simp] theorem State.setCanvas_err (s : State) (k : Slot) (c : Canvas) : (s.setCanvas k c).err = s.err := rfl
@[simp] theorem State.setCanvas_einfo0 (s : State) (k : Slot) (c : Canvas) : (s.setCanvas k c).einfo0 = s.einfo0 := rfl
@[simp] theorem State.setCanvas_einfo1 (s : State) (k : Slot) (c : Canvas) : (s.setCanvas k c).einfo1 = s.einfo1 := rfl
@[simp] theorem State.setCanvas_eoff (s : State) (k : Slot) (c : Canvas) : (s.setCanvas k c).eoff = s.eoff := rfl
@[simp] theorem State.setCanvas_hs (s : State) (k : Slot) (c : Canvas) : (s.setCanvas k c).hs = s.hs := rfl
@[simp] theorem State.setCanvas_zb (s : State) (k : Slot) (c : Canvas) : (s.setCanvas k c).zb = { s.zb with d := c.depth } := rfl
@[simp] theorem State.setCanvas_mesh (s : State) (k : Slot) (c : Canvas) : (s.setCanvas k c).mesh = s.mesh := rfl
@[simp] theorem State.setCanvas_dec (s : State) (k : Slot) (c : Canvas) : (s.setCanvas k c).dec = s.dec := rfl
@[simp] theorem State.setCanvas_host (s : State) (k : Slot) (c : Canvas) : (s.setCanvas k c).host = s.host := rfl

/-! ### loadSrc -/

@[simp] theorem State.loadSrc_a (s : State) (b : List Byte) : (s.loadSrc b).a = s.a := rfl
@[simp] theorem State.loadSrc_r (s : State) (b : List Byte) : (s.loadSrc b).r = s.r := rfl
@[simp] theorem State.loadSrc_coff (s : State) (b : List Byte) : (s.loadSrc b).coff = 0 := rfl
@[simp] theorem State.loadSrc_src (s : State) (b : List Byte) : (s.loadSrc b).src = b := rfl
@[simp] theorem State.loadSrc_snk (s : State) (b : List Byte) : (s.loadSrc b).snk = s.snk := rfl
@[simp] theorem State.loadSrc_err (s : State) (b : List Byte) : (s.loadSrc b).err = s.err := rfl
@[simp] theorem State.loadSrc_einfo0 (s : State) (b : List Byte) : (s.loadSrc b).einfo0 = s.einfo0 := rfl
@[simp] theorem State.loadSrc_einfo1 (s : State) (b : List Byte) : (s.loadSrc b).einfo1 = s.einfo1 := rfl
@[simp] theorem State.loadSrc_eoff (s : State) (b : List Byte) : (s.loadSrc b).eoff = s.eoff := rfl
@[simp] theorem State.loadSrc_img0 (s : State) (b : List Byte) : (s.loadSrc b).img0 = s.img0 := rfl
@[simp] theorem State.loadSrc_img1 (s : State) (b : List Byte) : (s.loadSrc b).img1 = s.img1 := rfl
@[simp] theorem State.loadSrc_hs (s : State) (b : List Byte) : (s.loadSrc b).hs = s.hs := rfl
@[simp] theorem State.loadSrc_zb (s : State) (b : List Byte) : (s.loadSrc b).zb = s.zb := rfl
@[simp] theorem State.loadSrc_mesh (s : State) (b : List Byte) : (s.loadSrc b).mesh = s.mesh := rfl
@[simp] theorem State.loadSrc_dec (s : State) (b : List Byte) : (s.loadSrc b).dec = s.dec := rfl
@[simp] theorem State.loadSrc_host (s : State) (b : List Byte) : (s.loadSrc b).host = s.host := rfl
@[simp] theorem State.loadSrc_img (s : State) (b : List Byte) (j : Slot) : (s.loadSrc b).img j = s.img j := by cases j <;> rfl

/-! ### emptySnk -/

@[simp] theorem State.emptySnk_a (s : State) : (s.emptySnk).a = s.a := rfl
@[simp] theorem State.emptySnk_r (s : State) : (s.emptySnk).r = s.r := rfl
@[simp] theorem State.emptySnk_coff (s : State) : (s.emptySnk).coff = s.coff := rfl
@[simp] theorem State.emptySnk_src (s : State) : (s.emptySnk).src = s.src := rfl
@[simp] theorem State.emptySnk_snk (s : State) : (s.emptySnk).snk = [] := rfl
@[simp] theorem State.emptySnk_err (s : State) : (s.emptySnk).err = s.err := rfl
@[simp] theorem State.emptySnk_einfo0 (s : State) : (s.emptySnk).einfo0 = s.einfo0 := rfl
@[simp] theorem State.emptySnk_einfo1 (s : State) : (s.emptySnk).einfo1 = s.einfo1 := rfl
@[simp] theorem State.emptySnk_eoff (s : State) : (s.emptySnk).eoff = s.eoff := rfl
@[simp] theorem State.emptySnk_img0 (s : State) : (s.emptySnk).img0 = s.img0 := rfl
@[simp] theorem State.emptySnk_img1 (s : State) : (s.emptySnk).img1 = s.img1 := rfl
@[simp] theorem State.emptySnk_hs (s : State) : (s.emptySnk).hs = s.hs := rfl
@[simp] theorem State.emptySnk_zb (s : State) : (s.emptySnk).zb = s.zb := rfl
@[simp] theorem State.emptySnk_mesh (s : State) : (s.emptySnk).mesh = s.mesh := rfl
@[simp] theorem State.emptySnk_dec (s : State) : (s.emptySnk).dec = s.dec := rfl
@[simp] theorem State.emptySnk_host (s : State) : (s.emptySnk).host = s.host := rfl
@[simp] theorem State.emptySnk_img (s : State) (j : Slot) : (s.emptySnk).img j = s.img j := by cases j <;> rfl

/-! ### setMesh -/

@[simp] theorem State.setMesh_a (s : State) (m : Mesh) : (s.setMesh m).a = s.a := rfl
@[simp] theorem State.setMesh_r (s : State) (m : Mesh) : (s.setMesh m).r = s.r := rfl
@[simp] theorem State.setMesh_coff (s : State) (m : Mesh) : (s.setMesh m).coff = s.coff := rfl
@[simp] theorem State.setMesh_src (s : State) (m : Mesh) : (s.setMesh m).src = s.src := rfl
@[simp] theorem State.setMesh_snk (s : State) (m : Mesh) : (s.setMesh m).snk = s.snk := rfl
@[simp] theorem State.setMesh_err (s : State) (m : Mesh) : (s.setMesh m).err = s.err := rfl
@[simp] theorem State.setMesh_einfo0 (s : State) (m : Mesh) : (s.setMesh m).einfo0 = s.einfo0 := rfl
@[simp] theorem State.setMesh_einfo1 (s : State) (m : Mesh) : (s.setMesh m).einfo1 = s.einfo1 := rfl
@[simp] theorem State.setMesh_eoff (s : State) (m : Mesh) : (s.setMesh m).eoff = s.eoff := rfl
@[simp] theorem State.setMesh_img0 (s : State) (m : Mesh) : (s.setMesh m).img0 = s.img0 := rfl
@[simp] theorem State.setMesh_img1 (s : State) (m : Mesh) : (s.setMesh m).img1 = s.img1 := rfl
@[simp] theorem State.setMesh_hs (s : State) (m : Mesh) : (s.setMesh m).hs = s.hs := rfl
@[simp] theorem State.setMesh_zb (s : State) (m : Mesh) : (s.setMesh m).zb = s.zb := rfl
@[simp] theorem State.setMesh_mesh (s : State) (m : Mesh) : (s.setMesh m).mesh = m := rfl
@[simp] theorem State.setMesh_dec (s : State) (m : Mesh) : (s.setMesh m).dec = s.dec := rfl
@[simp] theorem State.setMesh_host (s : State) (m : Mesh) : (s.setMesh m).host = s.host := rfl
@[simp] theorem State.setMesh_img (s : State) (m : Mesh) (j : Slot) : (s.setMesh m).img j = s.img j := by cases j <;> rfl

/-! ### popHost -/

@[simp] theorem State.popHost_a (s : State) (l : List HostAction) : (s.popHost l).a = s.a := rfl
@[simp] theorem State.popHost_r (s : State) (l : List HostAction) : (s.popHost l).r = s.r := rfl
@[simp] theorem State.popHost_coff (s : State) (l : List HostAction) : (s.popHost l).coff = s.coff := rfl
@[simp] theorem State.popHost_src (s : State) (l : List HostAction) : (s.popHost l).src = s.src := rfl
@[simp] theorem State.popHost_snk (s : State) (l : List HostAction) : (s.popHost l).snk = s.snk := rfl
@[simp] theorem State.popHost_err (s : State) (l : List HostAction) : (s.popHost l).err = s.err := rfl
@[simp] theorem State.popHost_einfo0 (s : State) (l : List HostAction) : (s.popHost l).einfo0 = s.einfo0 := rfl
@[simp] theorem State.popHost_einfo1 (s : State) (l : List HostAction) : (s.popHost l).einfo1 = s.einfo1 := rfl
@[simp] theorem State.popHost_eoff (s : State) (l : List HostAction) : (s.popHost l).eoff = s.eoff := rfl
@[simp] theorem State.popHost_img0 (s : State) (l : List HostAction) : (s.popHost l).img0 = s.img0 := rfl
@[simp] theorem State.popHost_img1 (s : State) (l : List HostAction) : (s.popHost l).img1 = s.img1 := rfl
@[simp] theorem State.popHost_hs (s : State) (l : List HostAction) : (s.popHost l).hs = s.hs := rfl
@[simp] theorem State.popHost_zb (s : State) (l : List HostAction) : (s.popHost l).zb = s.zb := rfl
@[simp] theorem State.popHost_mesh (s : State) (l : List HostAction) : (s.popHost l).mesh = s.mesh := rfl
@[simp] theorem State.popHost_dec (s : State) (l : List HostAction) : (s.popHost l).dec = s.dec := rfl
@[simp] theorem State.popHost_host (s : State) (l : List HostAction) : (s.popHost l).host = l := rfl
@[simp] theorem State.popHost_img (s : State) (l : List HostAction) (j : Slot) : (s.popHost l).img j = s.img j := by cases j <;> rfl

/-! ### The image of a slot after an update of a slot -/

@[simp] theorem State.setImg_img_self (s : State) (k : Slot) (im : Image) : (s.setImg k im).img k = im := by cases k <;> rfl
theorem State.setImg_img_ne (s : State) (k : Slot) (im : Image) (j : Slot) (h : j ≠ k) : (s.setImg k im).img j = s.img j := by
  cases j <;> cases k <;> first | rfl | exact absurd rfl h
@[simp] theorem State.setPix_img_self (s : State) (k : Slot) (m : PixMem) : (s.setPix k m).img k = { s.img k with pix := m } := by cases k <;> rfl
theorem State.setPix_img_ne (s : State) (k : Slot) (m : PixMem) (j : Slot) (h : j ≠ k) : (s.setPix k m).img j = s.img j := by
  cases j <;> cases k <;> first | rfl | exact absurd rfl h
@[simp] theorem State.commitImage_img_self (s : State) (k : Slot) (h : Header) (p : List Word) : (s.commitImage k h p).img k = { valid := true, hdr := h, pix := Memory.ofList p } := by cases k <;> rfl
theorem State.commitImage_img_ne (s : State) (k : Slot) (h : Header) (p : List Word) (j : Slot) (hj : j ≠ k) : (s.commitImage k h p).img j = s.img j := by
  cases j <;> cases k <;> first | rfl | exact absurd rfl hj
@[simp] theorem State.setCanvas_img_self (s : State) (k : Slot) (c : Canvas) : (s.setCanvas k c).img k = { s.img k with pix := c.pix } := by cases k <;> rfl
theorem State.setCanvas_img_ne (s : State) (k : Slot) (c : Canvas) (j : Slot) (h : j ≠ k) : (s.setCanvas k c).img j = s.img j := by
  cases j <;> cases k <;> first | rfl | exact absurd rfl h

/-! ### Reset -/

@[simp] theorem State.resetEvent_host (s : State) : s.resetEvent.host = s.host := rfl
@[simp] theorem State.resetEvent_mesh (s : State) : s.resetEvent.mesh = s.mesh := rfl
@[simp] theorem State.reset_img (k : Slot) : State.reset.img k = Image.invalid := by cases k <;> rfl

/-! ### Operand registers after a write of one -/

/-- Operand register `i` after a write of register `j`. -/
theorem get_set_reg {a : Vector Dword 16} {j : Nat} {hj : j < 16} (v : Dword) (i : Fin 16) :
    (a.set j v hj).get i = if j = i.1 then v else a.get i := by
  show (a.set j v hj)[i.1] = if j = i.1 then v else a[i.1]
  rw [Vector.getElem_set]

end Sys2Proof.Machine
end

