-- ==== Sys2Proof/Laws/Codec.lean ====
section
/-! SUPPORT. What the codec's procedures can do, said once each (43_codec.md). -/

namespace Sys2Proof.Machine

/-! ## The header parser (R195) -/

/-- A parsed header: 18 bytes were there, it is the one they spell, it is legal, and the cursor stands
behind it. -/
theorem parseHeader_ok {src : List Byte} {o c : Nat} {h : Header} (hp : parseHeader src o = .ok h c) :
    o + 18 ≤ src.length ∧ h = headerAt src o ∧ h.legal ∧ c = o + 18 := by
  unfold parseHeader at hp
  obtain ⟨_, c1, h1, hp⟩ := Scan.bind_eq_ok.1 hp
  obtain ⟨_, c2, h2, hp⟩ := Scan.bind_eq_ok.1 hp
  obtain ⟨it, c3, h3, hp⟩ := Scan.bind_eq_ok.1 hp
  split at hp
  · simp at hp
  next hit =>
  obtain ⟨_, c8, h8, hp⟩ := Scan.bind_eq_ok.1 hp
  obtain ⟨xo, c10, h10, hp⟩ := Scan.bind_eq_ok.1 hp
  obtain ⟨yo, c12, h12, hp⟩ := Scan.bind_eq_ok.1 hp
  obtain ⟨w, c14, h14, hp⟩ := Scan.bind_eq_ok.1 hp
  split at hp
  · simp at hp
  next hw =>
  obtain ⟨ht, c16, h16, hp⟩ := Scan.bind_eq_ok.1 hp
  split at hp
  · simp at hp
  next hh =>
  obtain ⟨bpp, c17, h17, hp⟩ := Scan.bind_eq_ok.1 hp
  split at hp
  · simp at hp
  next hb =>
  obtain ⟨d, c18, h18, hp⟩ := Scan.bind_eq_ok.1 hp
  obtain ⟨-, -, rfl⟩ := cursorAccept_eq_ok.1 h1
  obtain ⟨-, -, rfl⟩ := cursorAccept_eq_ok.1 h2
  obtain ⟨-, rfl, rfl⟩ := cursorU8_eq_ok.1 h3
  obtain ⟨-, -, rfl⟩ := cursorAccept_eq_ok.1 h8
  obtain ⟨-, rfl, rfl⟩ := cursorU16_eq_ok.1 h10
  obtain ⟨-, rfl, rfl⟩ := cursorU16_eq_ok.1 h12
  obtain ⟨-, rfl, rfl⟩ := cursorU16_eq_ok.1 h14
  obtain ⟨-, rfl, rfl⟩ := cursorU16_eq_ok.1 h16
  obtain ⟨-, rfl, rfl⟩ := cursorU8_eq_ok.1 h17
  obtain ⟨hl, rfl, rfl⟩ := cursorU8_eq_ok.1 h18
  simp only [Scan.ok.injEq] at hp
  obtain ⟨rfl, rfl⟩ := hp
  simp only [List.length_cons, List.length_nil, Nat.add_assoc, Nat.reduceAdd] at *
  exact ⟨by omega, rfl, ⟨rfl, rfl, by tauto, rfl, hw, hh, by tauto⟩, trivial⟩

theorem parseHeader_bounded (src : List Byte) (o : Nat) : (parseHeader src o).Bounded src o := by
  unfold parseHeader
  refine Scan.bounded_bind (cursorAccept_bounded _ _ _) fun _ c1 _ => ?_
  refine Scan.bounded_bind (cursorAccept_bounded _ _ _) fun _ c2 _ => ?_
  refine Scan.bounded_bind (cursorU8_bounded _ _) fun it c3 h3 => ?_
  have step8 : c2 ≤ c3 := by have := (cursorU8_eq_ok.1 h3).2.2; omega
  split
  · exact Scan.bounded_err fun h => ⟨le_refl _, h⟩
  refine Scan.bounded_bind (cursorAccept_bounded _ _ _) fun _ c8 _ => ?_
  refine Scan.bounded_bind (cursorU16_bounded _ _) fun _ c10 _ => ?_
  refine Scan.bounded_bind (cursorU16_bounded _ _) fun _ c12 _ => ?_
  refine Scan.bounded_bind (cursorU16_bounded _ _) fun w c14 _ => ?_
  split
  · exact Scan.bounded_err fun h => ⟨le_refl _, h⟩
  refine Scan.bounded_bind (cursorU16_bounded _ _) fun ht c16 _ => ?_
  split
  · exact Scan.bounded_err fun h => ⟨le_refl _, h⟩
  refine Scan.bounded_bind (cursorU8_bounded _ _) fun bpp c17 _ => ?_
  split
  · exact Scan.bounded_err fun h => ⟨le_refl _, h⟩
  exact Scan.bounded_bind (cursorU8_bounded _ _) fun _ _ _ => Scan.bounded_ok

/-! ## Pixel elements -/

@[simp] theorem length_chunkPixels (k n : Nat) (b : List Byte) : (chunkPixels k n b).length = n := by
  induction n generalizing b with
  | zero => rfl
  | succ n ih => simp [chunkPixels, ih]

/-- Pixel `i` of a stream comes from its bytes `i*k` to `i*k + k - 1`. -/
theorem getD_chunkPixels {k n i : Nat} (h : i < n) (b : List Byte) (d : Word) :
    (chunkPixels k n b).getD i d = pixelFromBytes ((b.drop (i * k)).take k) := by
  induction n generalizing b i with
  | zero => omega
  | succ n ih =>
    cases i with
    | zero => simp [chunkPixels]
    | succ i =>
      have := ih (i := i) (by omega) (b.drop k)
      simp only [chunkPixels, List.getD_cons_succ, this, List.drop_drop]
      congr 3
      rw [Nat.succ_mul]; omega

@[simp] theorem length_pixelToBytes (c : Word) : (pixelToBytes c).length = 4 := rfl

@[simp] theorem length_encodeHeader (h : Header) : (encodeHeader h).length = 18 := rfl

@[simp] theorem length_footer : footer.length = 26 := rfl

@[simp] theorem length_encodePixels (im : Image) : (encodePixels im).length = 4 * im.hdr.area := by
  have : ∀ l : List Word, (l.flatMap pixelToBytes).length = 4 * l.length := by
    intro l
    induction l with
    | nil => rfl
    | cons c t ih => simp only [List.flatMap_cons, List.length_append, length_pixelToBytes, ih,
        List.length_cons]; omega
  rw [encodePixels, this, Memory.length_toList]

/-! ## Packets (R208, R209) -/

/-- A RAW packet that is there: `cnt` pixels, pixel `j` from its own `k` bytes, and the cursor behind
them. -/
theorem rawPacket_ok {src : List Byte} {k cnt o c : Nat} {ps : List Word}
    (h : rawPacket src k cnt o = .ok ps c) :
    ps.length = cnt ∧ c = o + cnt * k ∧
      ∀ j < cnt, ps.getD j 0#32 = pixelFromBytes ((src.drop (o + j * k)).take k) := by
  induction cnt generalizing o ps with
  | zero =>
    simp only [rawPacket, Scan.ok.injEq] at h
    obtain ⟨rfl, rfl⟩ := h
    simp
  | succ cnt ih =>
    unfold rawPacket at h
    obtain ⟨b, c1, h1, hrest⟩ := Scan.bind_eq_ok.1 h
    obtain ⟨qs, c2, h2, hend⟩ := Scan.bind_eq_ok.1 hrest
    obtain ⟨-, rfl, rfl⟩ := cursorRead_eq_ok.1 h1
    cases hend
    obtain ⟨hl, hc, hg⟩ := ih h2
    refine ⟨by simp [hl], by rw [hc, Nat.succ_mul]; omega, fun j hj => ?_⟩
    cases j with
    | zero => simp
    | succ j =>
      rw [List.getD_cons_succ, hg j (by omega), Nat.succ_mul]
      congr 3
      omega

theorem rawPacket_bounded (src : List Byte) (k cnt o : Nat) : (rawPacket src k cnt o).Bounded src o := by
  induction cnt generalizing o with
  | zero => exact Scan.bounded_ok
  | succ cnt ih =>
    exact Scan.bounded_bind (cursorRead_bounded src k o) fun _ c _ =>
      Scan.bounded_bind (ih c) fun _ _ _ => Scan.bounded_ok

/-- A RAW packet whose bytes are all there succeeds. -/
theorem rawPacket_of_le {src : List Byte} {k cnt o : Nat} (h : o + cnt * k ≤ src.length) :
    ∃ ps, rawPacket src k cnt o = .ok ps (o + cnt * k) := by
  induction cnt generalizing o with
  | zero => exact ⟨[], by simp [rawPacket]⟩
  | succ cnt ih =>
    rw [Nat.succ_mul] at h
    obtain ⟨ps, hps⟩ := ih (o := o + k) (by omega)
    refine ⟨pixelFromBytes ((src.drop o).take k) :: ps, ?_⟩
    unfold rawPacket
    rw [cursorRead_of_le (by omega), Scan.bind_ok, hps, Scan.bind_ok, Nat.succ_mul]
    congr 1
    omega

/-- A RUN packet that is there: `cnt` copies of the one pixel that follows. -/
theorem runPacket_ok {src : List Byte} {k cnt o c : Nat} {ps : List Word}
    (h : runPacket src k cnt o = .ok ps c) :
    o + k ≤ src.length ∧ ps = List.replicate cnt (pixelFromBytes ((src.drop o).take k)) ∧ c = o + k := by
  unfold runPacket at h
  obtain ⟨b, c1, h1, h⟩ := Scan.bind_eq_ok.1 h
  obtain ⟨h2, rfl, rfl⟩ := cursorRead_eq_ok.1 h1
  simp only [Scan.ok.injEq] at h
  exact ⟨h2, h.1.symm, h.2.symm⟩

theorem runPacket_bounded (src : List Byte) (k cnt o : Nat) : (runPacket src k cnt o).Bounded src o :=
  Scan.bounded_bind (cursorRead_bounded src k o) fun _ _ _ => Scan.bounded_ok

/-- The three things a packet of a decode in progress can do: overshoot, end early, or produce its
pixels. -/
theorem packetBody_cases (cnt : Nat) (payload : Nat → Scan (List Word)) (d : Decoding) (s : State) :
    (d.hdr.area < d.pix.length + cnt ∧
        packetBody cnt payload d s = s.abortDecode (overshoot d cnt s.coff) s.coff) ∨
      (d.pix.length + cnt ≤ d.hdr.area ∧ ∃ e c, payload s.coff = .err e c ∧
        packetBody cnt payload d s = s.abortDecode e c) ∨
      (d.pix.length + cnt ≤ d.hdr.area ∧ ∃ ps c, payload s.coff = .ok ps c ∧
        packetBody cnt payload d s = s.producePixels d ps c) := by
  unfold packetBody
  split
  · next h => exact .inl ⟨h, rfl⟩
  · next h =>
    refine .inr ?_
    cases hp : payload s.coff with
    | ok ps c => exact .inr ⟨by omega, ps, c, rfl, rfl⟩
    | err e c => exact .inl ⟨by omega, e, c, rfl, rfl⟩

/-- The two things that producing pixels can do: the loop goes on, or the image is committed. -/
theorem producePixels_cases (s : State) (d : Decoding) (ps : List Word) (c : Nat) :
    ((d.pix ++ ps).length < d.hdr.area ∧
        s.producePixels d ps c = (s.setCoff c).setDec (some { d with pix := d.pix ++ ps })) ∨
      (d.hdr.area ≤ (d.pix ++ ps).length ∧
        s.producePixels d ps c = ((s.setCoff c).commitImage d.slot d.hdr (d.pix ++ ps)).setDec none) := by
  unfold State.producePixels
  simp only
  split
  · next h => exact .inl ⟨h, rfl⟩
  · next h => exact .inr ⟨by omega, rfl⟩

/-- The two outcomes of fetching a repetition byte. -/
theorem fetchRep_cases (s : State) :
    (s.src.length ≤ s.coff ∧ fetchRep s = .error (s.abortDecode (outOfBounds s.src 1 s.coff) s.coff)) ∨
      (s.coff < s.src.length ∧
        fetchRep s = .ok (s.src.getD s.coff 0#8, s.setCoff (s.coff + 1))) := by
  unfold fetchRep
  cases h : cursorU8 s.src s.coff with
  | ok b c =>
    obtain ⟨h1, rfl, rfl⟩ := cursorU8_eq_ok.1 h
    exact .inr ⟨h1, rfl⟩
  | err e c =>
    obtain ⟨h1, rfl, rfl⟩ := cursorU8_eq_err.1 h
    exact .inl ⟨h1, rfl⟩

theorem packetCount_pos (n : BitVec 7) : 0 < packetCount n := by simp [packetCount]

theorem packetCount_le (n : BitVec 7) : packetCount n ≤ 128 := by
  have := n.isLt
  simp [packetCount]
  omega

/-- The four things IDEC can have done before its packet loop: the header failed, the uncompressed
stream failed, an uncompressed image was committed, or a run-length decode has begun. -/
theorem idecBegin_cases (k : Slot) (s : State) :
    (∃ e c, parseHeader s.src s.coff = .err e c ∧
        idecBegin k s = (s.clearReport.setDec none).scanFailed e c) ∨
      ∃ hdr c, parseHeader s.src s.coff = .ok hdr c ∧
        ((hdr.imageType = 2#8 ∧ ∃ e c', decodeRaw s.src hdr c = .err e c' ∧
            idecBegin k s = (((s.clearReport.setDec none).setCoff c).setHs hdr).scanFailed e c') ∨
          (hdr.imageType = 2#8 ∧ ∃ pix c', decodeRaw s.src hdr c = .ok pix c' ∧
            idecBegin k s =
              ((((s.clearReport.setDec none).setCoff c).setHs hdr).setCoff c').commitImage k hdr pix) ∨
          (hdr.imageType ≠ 2#8 ∧
            idecBegin k s =
              (((s.clearReport.setDec none).setCoff c).setHs hdr).setDec
                (some { slot := k, hdr := hdr, pix := [] }))) := by
  unfold idecBegin
  simp only [State.setDec_src, State.setDec_coff, State.clearReport_src, State.clearReport_coff,
    State.setHs_src, State.setCoff_src]
  cases hp : parseHeader s.src s.coff with
  | err e c => exact .inl ⟨e, c, rfl, rfl⟩
  | ok hdr c =>
    refine .inr ⟨hdr, c, rfl, ?_⟩
    by_cases ht : hdr.imageType = 2#8
    · simp only [ht, ↓reduceIte]
      cases hd : decodeRaw s.src hdr c with
      | err e c' => exact .inl ⟨trivial, e, c', rfl, rfl⟩
      | ok pix c' => exact .inr (.inl ⟨trivial, pix, c', rfl, rfl⟩)
    · simp only [ht, ↓reduceIte]
      exact .inr (.inr ⟨ht, trivial⟩)

end Sys2Proof.Machine
end

