-- ==== Sys2Proof/Laws/Float.lean ====
section
/-! SUPPORT. The small facts about binary64 values as multiples of 2^-1074 (40_numerics_geometry.md R136,
R137). -/

namespace Sys2Proof.Machine

theorem F64.unit_pos : 0 < F64.unit := by
  unfold F64.unit
  positivity

theorem F64.limit_pos : 0 < F64.limit := by
  unfold F64.limit
  positivity

theorem F64.two_pow_pos : (0 : ℚ) < 2 ^ 1074 := by positivity

theorem F64.cast_unit : ((F64.unit : Nat) : ℚ) = 2 ^ 1074 := by
  unfold F64.unit
  rw [Nat.cast_pow]
  rfl

/-- Each operation on finite operands is one call of `round`; here the product. -/
theorem F64.mul_fin (n m : Bool) (p q : Nat) :
    (F64.fin n p).mul (.fin m q) = F64.round (n != m) (p * q) F64.unit := rfl

@[simp] theorem roundMag_zero (den : Nat) : roundMag 0 den = 0 := by simp [roundMag, roundDiv]

/-- Zero rounds to the zero of its sign. -/
theorem F64.round_zero (neg : Bool) (den : Nat) : F64.round neg 0 den = .fin neg 0 := by
  have hl := F64.limit_pos
  unfold F64.round
  rw [roundMag_zero]
  generalize F64.limit = l at hl
  exact if_pos hl

/-! ## The number a finite value stands for -/

theorem F64.real_mul_unit (n : Bool) (p : Nat) : F64.real n p * 2 ^ 1074 = F64.signedMag n p := by
  unfold F64.real
  rw [div_mul_cancel₀ _ F64.two_pow_pos.ne']

theorem F64.abs_real (n : Bool) (p : Nat) : |F64.real n p| * 2 ^ 1074 = p := by
  unfold F64.real F64.signedMag
  rw [abs_div, abs_of_pos F64.two_pow_pos, div_mul_cancel₀ _ F64.two_pow_pos.ne']
  cases n <;> simp

theorem F64.real_eq_zero (n : Bool) (p : Nat) : F64.real n p = 0 ↔ p = 0 := by
  have h := F64.abs_real n p
  constructor
  · intro e
    rw [e, abs_zero, zero_mul] at h
    exact_mod_cast h.symm
  · intro e
    unfold F64.real F64.signedMag
    rw [e]
    cases n <;> simp

theorem F64.real_not (n : Bool) (p : Nat) : F64.real (!n) p = -F64.real n p := by
  unfold F64.real F64.signedMag
  cases n <;> simp [neg_div]

/-- The order of two finite values is that of their magnitudes with sign (R139). -/
theorem F64.real_lt_iff (n m : Bool) (p q : Nat) :
    F64.real n p < F64.real m q ↔ F64.signedMag n p < F64.signedMag m q := by
  unfold F64.real
  rw [div_lt_div_iff_of_pos_right F64.two_pow_pos]
  exact_mod_cast Iff.rfl

end Sys2Proof.Machine
end

