-- ==== Sys2Proof/Laws/Invariant.lean ====
section
/-! SUPPORT. The invariant under each named update of the state. -/

namespace Sys2Proof.Machine

/-- A state that differs in nothing the invariant speaks of but the report and COFF. -/
theorem State.Inv.of_eq {s t : State} (hs : s.Inv) (hc : t.coff ≤ t.src.length) (he : t.errLegal)
    (h0 : t.img0 = s.img0) (h1 : t.img1 = s.img1) (hh : t.hs = s.hs) (hz : t.zb = s.zb)
    (hd : t.dec = s.dec) : t.Inv := by
  obtain ⟨_, _, i0, i1, ih, iz, id⟩ := hs
  exact ⟨hc, he, h0 ▸ i0, h1 ▸ i1, hh ▸ ih, hz ▸ iz, hd ▸ id⟩

theorem State.Inv.img {s : State} (hs : s.Inv) (k : Slot) : (s.img k).ok := by
  obtain ⟨_, _, i0, i1, _⟩ := hs
  cases k <;> assumption

/-- Every kind's code is a legal value of ERR (R30). -/
theorem ErrKind.code_legal (k : ErrKind) : k.code ∈ [0#8, 1#8, 2#8, 3#8, 4#8, 6#8, 7#8] := by
  cases k <;> decide

theorem State.Inv.setImg {s : State} (hs : s.Inv) (k : Slot) {im : Image} (h : im.ok) :
    (s.setImg k im).Inv := by
  obtain ⟨a, b, c, d, e, f, g⟩ := hs
  refine ⟨a, b, ?_, ?_, e, f, g⟩ <;> cases k <;> assumption

theorem State.Inv.setZb {s : State} (hs : s.Inv) {z : DepthBuffer} (h : z.ok) : (s.setZb z).Inv := by
  obtain ⟨a, b, c, d, e, _, g⟩ := hs
  exact ⟨a, b, c, d, e, h, g⟩

theorem State.Inv.setDec {s : State} (hs : s.Inv) {d : Option Decoding} (h : ∀ x ∈ d, x.ok) :
    (s.setDec d).Inv := by
  obtain ⟨a, b, c, d, e, f, _⟩ := hs
  exact ⟨a, b, c, d, e, f, h⟩

theorem State.Inv.setHs {s : State} (hs : s.Inv) {h : Header} (hl : h.legal) : (s.setHs h).Inv := by
  obtain ⟨a, b, c, d, _, f, g⟩ := hs
  exact ⟨a, b, c, d, ⟨fun _ => hl, fun x => by simp [State.setHs] at x⟩, f, g⟩

theorem State.Inv.clearReport {s : State} (hs : s.Inv) : s.clearReport.Inv :=
  hs.of_eq hs.1 (show (0#8) ∈ [0#8, 1#8, 2#8, 3#8, 4#8, 6#8, 7#8] by decide) rfl rfl rfl rfl rfl

theorem State.Inv.raise {s : State} (hs : s.Inv) (e : Report) : (s.raise e).Inv :=
  hs.of_eq hs.1 (ErrKind.code_legal e.kind) rfl rfl rfl rfl rfl

theorem State.Inv.setCoff {s : State} (hs : s.Inv) {c : Nat} (h : c ≤ s.src.length) : (s.setCoff c).Inv :=
  hs.of_eq h hs.2.1 rfl rfl rfl rfl rfl

theorem State.Inv.setR {s : State} (hs : s.Inv) (i : Fin 4) (v : Dword) : (s.setR i v).Inv :=
  hs.of_eq hs.1 hs.2.1 rfl rfl rfl rfl rfl

/-- A valid image keeps its form under new pixels in canonical form and inside its length. -/
theorem Image.ok.withPix {im : Image} (h : im.ok) (hv : im.valid = true) {m : PixMem} (hm : m.wf)
    (hw : m.within im.hdr.area) : Image.ok { im with pix := m } :=
  ⟨h.1, fun x => by simp [hv] at x, hm, hw⟩

theorem State.Inv.setPix {s : State} (hs : s.Inv) (k : Slot) (hv : (s.img k).valid = true) {m : PixMem}
    (hm : m.wf) (hw : m.within (s.img k).hdr.area) : (s.setPix k m).Inv :=
  hs.setImg k ((hs.img k).withPix hv hm hw)

end Sys2Proof.Machine
end

