-- ==== Sys2Proof/Laws/PerInstr.lean ====
section
/-! SUPPORT. The family `EncodesItsRow`: a fact about every instruction as syntax, one lemma per
constructor of `Instr`. -/

namespace Sys2Proof.Laws.EncodesItsRow

open Sys2Proof.Machine

/-- What the encoder writes for a legal instruction is a code of the instruction's own row of
opcode_table.json: a command word that the CMD32 row of its mnemonic selects (30_encoding.md R101, R110),
or a repetition byte whose bit 7 tells RAW from RUN (R96). -/
def Statement (i : Instr) : Prop :=
  i.wf = true →
    (∃ w, encode i = .cmd32 w ∧ ∃ r ∈ commandRows, r.selects w = true ∧ r.mnemonic = mnemonicOf i) ∨
    (∃ b, encode i = .rle8 b ∧ mnemonicOf i = if repIsRun b then "RUN" else "RAW")

/-- A command's word selects its row: the shape of every command's proof. -/
theorem of_row {i : Instr} {w : Word} (r : CommandRow) (hw : encode i = .cmd32 w) (hr : r ∈ commandRows)
    (hs : i.wf = true → r.selects w = true) (hm : r.mnemonic = mnemonicOf i) : Statement i :=
  fun h => .inl ⟨w, hw, r, hr, hs h, hm⟩

theorem nop : Statement .nop :=
  of_row ⟨"NOP", 0x00000000#32, 0xFFFFFFFF#32, .free⟩ rfl (by decide) (by decide) rfl

theorem pack : Statement .pack :=
  of_row ⟨"PACK", 0x00000001#32, 0xFFFFFFFF#32, .free⟩ rfl (by decide) (by decide) rfl

theorem unpack : Statement .unpack :=
  of_row ⟨"UNPACK", 0x00000002#32, 0xFFFFFFFF#32, .free⟩ rfl (by decide) (by decide) rfl

theorem from24 : Statement .from24 :=
  of_row ⟨"FROM24", 0x00000003#32, 0xFFFFFFFF#32, .free⟩ rfl (by decide) (by decide) rfl

theorem crd (n : BitVec 4) : Statement (.crd n) :=
  of_row ⟨"CRD", 0x00000010#32, 0xFFF0FFFF#32, .count⟩ rfl (by decide) (by revert n; decide) rfl

theorem cpk (n : BitVec 4) : Statement (.cpk n) :=
  of_row ⟨"CPK", 0x00000011#32, 0xFFF0FFFF#32, .count⟩ rfl (by decide) (by revert n; decide) rfl

theorem csk : Statement .csk :=
  of_row ⟨"CSK", 0x00000012#32, 0xFFFFFFFF#32, .free⟩ rfl (by decide) (by decide) rfl

theorem cac (n : BitVec 4) : Statement (.cac n) :=
  of_row ⟨"CAC", 0x00000013#32, 0xFFF0FFFF#32, .count⟩ rfl (by decide) (by revert n; decide) rfl

theorem inew (s : Slot) : Statement (.inew s) :=
  of_row ⟨"INEW", 0x00000020#32, 0xFFFFFEFF#32, .free⟩ rfl (by decide) (by cases s <;> decide) rfl

theorem iget (s : Slot) : Statement (.iget s) :=
  of_row ⟨"IGET", 0x00000021#32, 0xFFFFFEFF#32, .free⟩ rfl (by decide) (by cases s <;> decide) rfl

theorem iset (s : Slot) : Statement (.iset s) :=
  of_row ⟨"ISET", 0x00000022#32, 0xFFFFFEFF#32, .free⟩ rfl (by decide) (by cases s <;> decide) rfl

theorem ihdr : Statement .ihdr :=
  of_row ⟨"IHDR", 0x00000023#32, 0xFFFFFFFF#32, .free⟩ rfl (by decide) (by decide) rfl

theorem idec (s : Slot) : Statement (.idec s) :=
  of_row ⟨"IDEC", 0x00000024#32, 0xFFFFFEFF#32, .free⟩ rfl (by decide) (by cases s <;> decide) rfl

theorem ienc (s : Slot) : Statement (.ienc s) :=
  of_row ⟨"IENC", 0x00000025#32, 0xFFFFFEFF#32, .free⟩ rfl (by decide) (by cases s <;> decide) rfl

theorem zclr (s : Slot) : Statement (.zclr s) :=
  of_row ⟨"ZCLR", 0x00000030#32, 0xFFFFFEFF#32, .free⟩ rfl (by decide) (by cases s <;> decide) rfl

theorem line (s : Slot) : Statement (.line s) :=
  of_row ⟨"LINE", 0x00000031#32, 0xFFFFFEFF#32, .free⟩ rfl (by decide) (by cases s <;> decide) rfl

theorem tri (s : Slot) (tex : Option Slot) (zen : Bool) : Statement (.tri s tex zen) :=
  of_row ⟨"TRI", 0x00000032#32, 0xFFFFF0FF#32, .texture⟩ rfl (by decide)
    (by cases s <;> rcases tex with _ | _ | _ <;> cases zen <;> decide) rfl

theorem face (s : Slot) (tex : Option Slot) (zen : Bool) : Statement (.face s tex zen) :=
  of_row ⟨"FACE", 0x00000033#32, 0xFFFFF0FF#32, .texture⟩ rfl (by decide)
    (by cases s <;> rcases tex with _ | _ | _ <;> cases zen <;> decide) rfl

theorem render (s : Slot) (tex : Option Slot) : Statement (.render s tex) :=
  of_row ⟨"RENDER", 0x00000034#32, 0xFFFFF8FF#32, .texture⟩ rfl (by decide)
    (by cases s <;> rcases tex with _ | _ | _ <;> decide) rfl

theorem raw (n : BitVec 7) : Statement (.raw n) :=
  fun _ => .inr ⟨0#1 ++ n, rfl, by revert n; decide⟩

theorem run (n : BitVec 7) : Statement (.run n) :=
  fun _ => .inr ⟨1#1 ++ n, rfl, by revert n; decide⟩

end Sys2Proof.Laws.EncodesItsRow
end

