-- ==== Sys2Proof/Laws/Raster.lean ====
section
/-! SUPPORT. What the rasterizer's procedures can do, said once each (44_rasterizer.md). -/

namespace Sys2Proof.Machine

/-! ## Linear indices (20_memory.md R63) -/

theorem linearIndex_lt {w h x y : Nat} (hx : x < w) (hy : y < h) : linearIndex w x y < w * h := by
  have h1 : (y + 1) * w ≤ h * w := Nat.mul_le_mul_right w (by omega)
  have h2 : (y + 1) * w = y * w + w := Nat.succ_mul y w
  unfold linearIndex
  rw [Nat.mul_comm w h]
  omega

/-- Distinct positions have distinct indices (43_codec.md R194). -/
theorem linearIndex_inj {w x y x' y' : Nat} (hx : x < w) (hx' : x' < w)
    (h : linearIndex w x y = linearIndex w x' y') : x = x' ∧ y = y' := by
  have hw : 0 < w := by omega
  have e1 : linearIndex w x y / w = y := by
    rw [linearIndex, Nat.mul_comm, Nat.mul_add_div hw, Nat.div_eq_of_lt hx, Nat.add_zero]
  have e2 : linearIndex w x' y' / w = y' := by
    rw [linearIndex, Nat.mul_comm, Nat.mul_add_div hw, Nat.div_eq_of_lt hx', Nat.add_zero]
  have hy : y = y' := by rw [← e1, ← e2, h]
  subst hy
  unfold linearIndex at h
  exact ⟨by omega, rfl⟩

/-! ## Plots and lines -/

/-- The position lies in the target. -/
def Target.has (t : Target) (p : Int × Int) : Prop := 0 ≤ p.1 ∧ p.1 < t.w ∧ 0 ≤ p.2 ∧ p.2 < t.h

/-- A plot writes one element, or nothing outside the image (R244). -/
theorem plot_cases (t : Target) (c : Word) (m : PixMem) (p : Int × Int) :
    (t.has p ∧ plot t c m p = m.write (linearIndex t.w p.1.toNat p.2.toNat) c) ∨
      (¬ t.has p ∧ plot t c m p = m) := by
  unfold plot Target.has
  split
  · next h => exact .inl ⟨h, rfl⟩
  · next h => exact .inr ⟨h, rfl⟩

theorem Target.index_lt {t : Target} {p : Int × Int} (h : t.has p) :
    linearIndex t.w p.1.toNat p.2.toNat < t.w * t.h := by
  obtain ⟨h1, h2, h3, h4⟩ := h
  exact linearIndex_lt (by omega) (by omega)

/-- Plotting keeps the canonical form and the bounds. -/
theorem plots_wf {t : Target} {c : Word} (ps : List (Int × Int)) {m : PixMem} (h : m.wf)
    (hw : m.within (t.w * t.h)) :
    (ps.foldl (plot t c) m).wf ∧ (ps.foldl (plot t c) m).within (t.w * t.h) := by
  induction ps generalizing m with
  | nil => exact ⟨h, hw⟩
  | cons p ps ih =>
    rw [List.foldl_cons]
    rcases plot_cases t c m p with ⟨hp, e⟩ | ⟨-, e⟩
    · rw [e]
      exact ih (Memory.write_wf h _ _) (Memory.write_within hw (Target.index_lt hp) c)
    · rw [e]
      exact ih h hw

theorem drawLine_wf {t : Target} {c : Word} {m : PixMem} (x0 y0 x1 y1 : Nat) (h : m.wf)
    (hw : m.within (t.w * t.h)) :
    (drawLine t x0 y0 x1 y1 c m).wf ∧ (drawLine t x0 y0 x1 y1 c m).within (t.w * t.h) :=
  plots_wf _ h hw

theorem outline_wf {t : Target} {m : PixMem} (v : Triangle) (h : m.wf) (hw : m.within (t.w * t.h)) :
    (outline t v m).wf ∧ (outline t v m).within (t.w * t.h) := by
  unfold outline
  obtain ⟨h1, w1⟩ := drawLine_wf (c := Config.outlineColor) v.v0.x.toint v.v0.y.toint v.v1.x.toint
    v.v1.y.toint h hw
  obtain ⟨h2, w2⟩ := drawLine_wf (c := Config.outlineColor) v.v1.x.toint v.v1.y.toint v.v2.x.toint
    v.v2.y.toint h1 w1
  exact drawLine_wf _ _ _ _ h2 w2

@[simp] theorem length_lineWalk (sp sq : Int) (g : F64) (n : Nat) (l : LineState) :
    (lineWalk sp sq g n l).length = n := by
  induction n generalizing l with
  | zero => rfl
  | succ n ih => simp [lineWalk, ih]

/-- The driving coordinate advances by its step in every iteration (R246). -/
theorem lineStep_p (sp sq : Int) (g : F64) (l : LineState) : (lineStep sp sq g l).p = l.p + sp := by
  simp only [lineStep]
  split <;> rfl

/-- The position an iteration of the loop plots, by the recurrence of the error (R246). -/
theorem lineWalk_getElem? (sp sq p q : Int) (g : F64) {n i : Nat} (hi : i < n) :
    (lineWalk sp sq g n { p := p, q := q, e := F64.zero })[i]? =
      some (p + i * sp, q + (lineError g i).2 * sq) := by
  suffices h : ∀ n m i : Nat, i < n →
      (lineWalk sp sq g n
        { p := p + m * sp, q := q + (lineError g m).2 * sq, e := (lineError g m).1 })[i]? =
        some (p + (m + i : Nat) * sp, q + (lineError g (m + i)).2 * sq) by
    simpa [lineError] using h n 0 i hi
  intro n
  induction n with
  | zero => intro m i hi; omega
  | succ n ih =>
    intro m i hi
    cases i with
    | zero => simp [lineWalk]
    | succ i =>
      simp only [lineWalk, List.getElem?_cons_succ]
      have hs : lineStep sp sq g
            { p := p + m * sp, q := q + (lineError g m).2 * sq, e := (lineError g m).1 } =
          { p := p + (m + 1 : Nat) * sp, q := q + (lineError g (m + 1)).2 * sq,
            e := (lineError g (m + 1)).1 } := by
        simp only [lineStep, lineError]
        split <;> simp only [LineState.mk.injEq] <;> push_cast
        · exact ⟨by ring, by ring, trivial⟩
        · exact ⟨by ring, trivial, trivial⟩
      rw [hs, show m + (i + 1) = m + 1 + i by omega, ih (m + 1) i (by omega)]

/-- `sign` of R131 is the library's. -/
theorem sign_eq (v : Int) : sign v = v.sign := by
  unfold sign
  split
  · next h => exact (Int.sign_eq_neg_one_of_neg h).symm
  · split
    · next h => simp [h]
    · exact (Int.sign_eq_one_of_pos (by omega)).symm

/-! ## The bounding box (R250) -/

/-- In an image of at least one pixel the box lies inside it, its edges in order. -/
theorem boundingBox_le {t : Target} (hw : 0 < t.w) (hh : 0 < t.h) (v : Triangle) :
    (boundingBox t v).xmin ≤ (boundingBox t v).xmax ∧ (boundingBox t v).xmax < t.w ∧
      (boundingBox t v).ymin ≤ (boundingBox t v).ymax ∧ (boundingBox t v).ymax < t.h := by
  simp only [boundingBox]
  omega

theorem mem_boxPixels {b : Box} {p : Nat × Nat} :
    p ∈ boxPixels b ↔ b.xmin ≤ p.1 ∧ p.1 ≤ b.xmax ∧ b.ymin ≤ p.2 ∧ p.2 ≤ b.ymax := by
  obtain ⟨x, y⟩ := p
  simp only [boxPixels, List.mem_flatMap, List.mem_map, List.mem_range', Nat.one_mul, Prod.mk.injEq]
  constructor
  · rintro ⟨py, ⟨i, hi, rfl⟩, px, ⟨j, hj, rfl⟩, rfl, rfl⟩
    omega
  · rintro ⟨h1, h2, h3, h4⟩
    exact ⟨y, ⟨y - b.ymin, by omega, by omega⟩, x, ⟨x - b.xmin, by omega, by omega⟩, rfl, rfl⟩

/-- Each pixel of the box is visited once (R255). -/
theorem nodup_boxPixels (b : Box) : (boxPixels b).Nodup := by
  unfold boxPixels
  rw [List.nodup_flatMap]
  refine ⟨fun y _ => (List.nodup_range' (step := 1)).map fun a c h => by simpa using h, ?_⟩
  refine (List.nodup_range' (step := 1)).pairwise_of_forall_ne ?_
  intro y _ y' _ hne
  rw [Function.onFun, List.disjoint_left]
  intro p hp hp'
  obtain ⟨_, _, e⟩ := List.mem_map.1 hp
  obtain ⟨_, _, e'⟩ := List.mem_map.1 hp'
  exact hne ((congrArg Prod.snd e).trans (congrArg Prod.snd e').symm)

/-! ## One pixel of the scan (R261) -/

/-- A pixel of the scan is left alone, or receives the fragment's colour and, with `zen`, its depth. -/
theorem fillPixel_cases (t : Target) (f : Fill) (m : Inverse) (c : Canvas) (p : Nat × Nat) :
    (fragment f m (c.depth.read (linearIndex t.w p.1 p.2)) p.1 p.2 = none ∧
        fillPixel t f m c p = c) ∨
      ∃ col, fragment f m (c.depth.read (linearIndex t.w p.1 p.2)) p.1 p.2 = some col ∧
        fillPixel t f m c p =
          { pix := c.pix.write (linearIndex t.w p.1 p.2) col
            depth := if f.zen then c.depth.write (linearIndex t.w p.1 p.2)
              (fragmentDepth f.tri (weights f.tri.v0 m p.1 p.2)).toBits else c.depth } := by
  unfold fillPixel
  cases h : fragment f m (c.depth.read (linearIndex t.w p.1 p.2)) p.1 p.2 with
  | none => exact .inl ⟨rfl, by simp [h]⟩
  | some col => exact .inr ⟨col, rfl, by simp [h]⟩

/-- A fragment that receives a colour passed the inside test and the depth test. -/
theorem fragment_eq_some {f : Fill} {m : Inverse} {stored : Dword} {px py : Nat} {col : Word} :
    fragment f m stored px py = some col ↔
      (weights f.tri.v0 m px py).inside = true ∧
        depthPasses f (weights f.tri.v0 m px py) stored = true ∧
        fragmentColor f (weights f.tri.v0 m px py) = some col := by
  unfold fragment
  simp only [Bool.and_eq_true]
  split
  · next h => exact ⟨fun e => ⟨h.1, h.2, e⟩, fun e => e.2.2⟩
  · next h => exact ⟨fun e => by simp at e, fun e => absurd ⟨e.1, e.2.1⟩ h⟩

/-! ## The operands and formulas as Safety writes them (R250 to R262) -/

theorem operandTriangle_eq (s : State) : s.operandTriangle = s.argTriangle := rfl
theorem operandTexCoords_eq (s : State) : s.operandTexCoords = s.argTexCoords := rfl
theorem pixelWeights_eq (v : Triangle) (x y : Nat) :
    pixelWeights v x y = weights v.v0 (inverse (edges v)) x y := rfl
theorem pixelDepth_eq (v : Triangle) (x y : Nat) :
    pixelDepth v x y = fragmentDepth v (weights v.v0 (inverse (edges v)) x y) := rfl

theorem boxEdge_eq (n v : Nat) : boxEdge n v = ((min v (n - 1) : Nat) : Int) := by
  unfold boxEdge
  omega

theorem boxLow_eq (n : Nat) (a b c : F64) :
    boxLow n a b c = ((min (min (min a.toint b.toint) c.toint) (n - 1) : Nat) : Int) := boxEdge_eq _ _
theorem boxHigh_eq (n : Nat) (a b c : F64) :
    boxHigh n a b c = ((min (max (max a.toint b.toint) c.toint) (n - 1) : Nat) : Int) := boxEdge_eq _ _

theorem degenerate_iff (t : Target) (v : Triangle) :
    degenerate t v = true ↔ Degenerate t.w t.h v := by
  unfold degenerate Degenerate
  simp only [Bool.or_eq_true, beq_iff_eq, boxLow_eq, boxHigh_eq, Int.natCast_inj, or_assoc]
  exact Iff.rfl

/-- A texel is there exactly as R259 says. -/
theorem texel_eq_some {s : State} {t : Slot} {c : TexCoords} {k : Weights} {col : Word} :
    texel { w := s.imgW t, h := s.imgH t, pix := (s.img t).pix, coords := c } k = some col ↔
      TexelIs (s.img t) c k col := by
  unfold texel TexelIs
  simp only [Bool.and_eq_true]
  split
  · next h =>
    split
    · next hn =>
      refine iff_of_false (by simp) fun e => ?_
      obtain ⟨-, -, h1, h2, h3, h4, -⟩ := e
      rcases hn with hn | hn | hn | hn
      · exact absurd h1 (not_le.2 hn)
      · exact absurd h2 (not_lt.2 hn)
      · exact absurd h3 (not_le.2 hn)
      · exact absurd h4 (not_lt.2 hn)
    · next hn =>
      simp only [not_or, not_lt, ge_iff_le, not_le] at hn
      rw [Option.some.injEq]
      exact ⟨fun e => ⟨h.1, h.2, hn.1, hn.2.1, hn.2.2.1, hn.2.2.2, e.symm⟩, fun e => e.2.2.2.2.2.2.symm⟩
  · next h => exact iff_of_false (by simp) fun e => h ⟨e.1, e.2.1⟩

/-- The fragment a TRI computes for a pixel of its box is the one R250 to R260 accept. -/
theorem accepts_iff {s : State} {k : Slot} {tex : Option Slot} {zen : Bool} {x y : Nat} {col : Word} :
    s.Accepts k tex zen x y col ↔
      (x, y) ∈ boxPixels (boundingBox (s.target k) s.argTriangle) ∧
        fragment { tri := s.argTriangle, tex := s.texture tex s.argTexCoords, zen := zen,
                   color := s.argColor 15 }
          (inverse (edges s.argTriangle)) (s.zb.d.read (linearIndex (s.imgW k) x y)) x y = some col := by
  rw [mem_boxPixels, fragment_eq_some]
  unfold State.Accepts
  simp only [boxLow_eq, boxHigh_eq, Int.ofNat_le, pixelWeights_eq, pixelDepth_eq, operandTriangle_eq,
    operandTexCoords_eq, and_assoc]
  constructor
  · rintro ⟨b1, b2, b3, b4, h1, h2, h3, hz, hc⟩
    refine ⟨b1, b2, b3, b4, by simp [Weights.inside, h1, h2, h3], ?_, ?_⟩
    · cases zen
      · rfl
      · exact hz rfl
    · cases tex with
      | none => exact congrArg some hc.symm
      | some t => exact texel_eq_some.2 hc
  · rintro ⟨b1, b2, b3, b4, hi, hz, hc⟩
    simp only [Weights.inside, Bool.and_eq_true] at hi
    refine ⟨b1, b2, b3, b4, hi.1.1, hi.1.2, hi.2, fun e => ?_, ?_⟩
    · subst e; exact hz
    · cases tex with
      | none => exact (Option.some.inj hc).symm
      | some t => exact texel_eq_some.1 hc

/-! ## Preconditions (R241) -/

theorem targetCheck_eq_none {s : State} {k : Slot} {tex : Option Slot} :
    s.targetCheck k tex = none ↔ (s.img k).valid = true ∧ s.textureValid tex = true := by
  unfold State.targetCheck
  cases (s.img k).valid <;> cases s.textureValid tex <;> simp

theorem fillCheck_eq_none {s : State} {k : Slot} {tex : Option Slot} {zen : Bool} :
    s.fillCheck k tex zen = none ↔
      (s.img k).valid = true ∧ s.textureValid tex = true ∧ (zen = true → s.depthFits k = true) ∧
        s.argTriangle.finiteXY = true := by
  unfold State.fillCheck
  cases h : s.targetCheck k tex with
  | some r =>
    have : ¬ ((s.img k).valid = true ∧ s.textureValid tex = true) := fun e => by
      rw [targetCheck_eq_none.2 e] at h
      simp at h
    simp only [reduceCtorEq, false_iff]
    exact fun e => this ⟨e.1, e.2.1⟩
  | none =>
    obtain ⟨h1, h2⟩ := targetCheck_eq_none.1 h
    cases zen <;> cases s.depthFits k <;> cases s.argTriangle.finiteXY <;> simp [h1, h2]

end Sys2Proof.Machine
end

