-- ==== Sys2Proof/Laws/Step.lean ====
section
/-! SUPPORT. What a step can be, by the state it starts from (00_scope.md R11), and running several. -/

namespace Sys2Proof.Machine

/-- One step, then `n` more. -/
theorem run_next (M : Host.Core) {s t : M.State} {n : Nat} {o : Host.Outcome M.State M.Fault M.Refusal}
    (h : M.step s = .next t) (e : M.run n t = o) : M.run (n + 1) s = o := by
  show (match M.step s with
    | .next u => M.run n u
    | .fault r => .fault r
    | .refused r => .refused r) = o
  rw [h]
  exact e

/-- In a decode in progress a step is one iteration of the packet loop. -/
theorem step_of_dec {s : State} {d : Decoding} (hs : s.dec = some d) :
    step s = .next (packetIteration d s) := by
  unfold step packetIteration
  rw [hs]
  simp only [stepPacket]
  rcases fetchRep_cases s with ⟨_, e⟩ | ⟨_, e⟩
  · rw [e]
  · rw [e]
    simp only [decodeRep]
    split <;> simp [exec, execRun, execRaw, hs]

/-- Between commands a step is the next host action. -/
theorem step_of_host {s : State} {act : HostAction} {rest : List HostAction} (hs : s.dec = none)
    (h : s.host = act :: rest) : step s = stepHost act (s.popHost rest) := by
  simp [step, hs, h]

/-- With no action left the block is idle. -/
theorem step_of_idle {s : State} (hs : s.dec = none) (h : s.host = []) : step s = .next s := by
  simp [step, hs, h]

/-- A host action is a write of CMD or has an effect of its own. -/
theorem stepHost_cases (act : HostAction) (s : State) :
    (∃ w, act.cmdWrite = some w ∧ stepHost act s = runCommand w s) ∨
      (act.cmdWrite = none ∧ stepHost act s = hostEffect act s) := by
  unfold stepHost
  cases act.cmdWrite with
  | none => exact .inr ⟨rfl, rfl⟩
  | some w => exact .inl ⟨w, rfl, rfl⟩

/-- A write of CMD runs a command or leaves the report of an illegal word. -/
theorem runCommand_cases (w : Word) (s : State) :
    (∃ i, decode (.cmd32 w) = .ok i ∧ runCommand w s = exec i s) ∨
      (∃ r, decode (.cmd32 w) = .error r ∧ runCommand w s = .next (s.illegalWord w)) := by
  unfold runCommand
  cases decode (.cmd32 w) with
  | ok i => exact .inl ⟨i, rfl, rfl⟩
  | error r => exact .inr ⟨r, rfl, rfl⟩

end Sys2Proof.Machine
end

