-- ==== Sys2Proof/Tests/Slice0.lean ====
section
/-! SUPPORT. Tests and witnesses. Expected values are those of spec/95_test_vectors.md, named by their
identifiers (V-...) and checked against the rules, never the model's own answers. A theorem
`witness_<Name>` shows a state and operands that meet the hypotheses of obligation `<Name>`. -/

namespace Sys2Proof.Tests

open Sys2Proof.Machine

/-! ## Small states -/

/-- The next state of an outcome, if it has one. -/
def answer : Host.Outcome State Fault Refusal → Option State
  | .next t => some t
  | .fault _ => none
  | .refused _ => none

/-- The reset state with `SRC` loaded. -/
def withSrc (b : List Byte) : State := { State.reset with src := b }

/-- `s` with A[0], A[1], ... written. -/
def args (l : List Dword) (s : State) : State := { s with a := Vector.ofFn fun i => l.getD i 0 }

/-- A legal header of an uncompressed image of depth 32. -/
def header (w h : Half) : Header :=
  { idLength := 0, colorMapType := 0, imageType := 2, colorMapSpec := 0, xOrigin := 0, yOrigin := 0
    width := w, height := h, bitsPerPixel := 32, imageDescriptor := 0 }

/-- A valid image with the given pixels. -/
def image (w h : Half) (ps : List Word) : Image :=
  { valid := true, hdr := header w h, pix := Memory.ofList ps }

/-- A run-length header of depth 24. -/
def rleHeader (w h : Half) : Header := { header w h with imageType := 10, bitsPerPixel := 24 }

/-- The reset state with a blank image in slot 0. -/
def canvas (w h : Half) : State := { State.reset with img0 := image w h [] }

/-- The pixels of slot 0. -/
def grid (s : State) : List Word := s.img0.pix.toList s.img0.hdr.area

/-- The report. -/
def report (s : State) : Byte × Dword × Dword × Dword := (s.err, s.einfo0, s.einfo1, s.eoff)

/-- 0.0, 0.5, 1.0, 4.0 and 8.0 as bit patterns (95_test_vectors.md, "Notation"). -/
def d0 : Dword := 0x0000000000000000#64
def dHalf : Dword := 0x3FE0000000000000#64
def d1 : Dword := 0x3FF0000000000000#64
def d4 : Dword := 0x4010000000000000#64
def d8 : Dword := 0x4020000000000000#64

/-- The triangle (0,0,z), (4,0,z), (0,4,z) of V-T1, the flat colour white. -/
def triangle (z : Dword) : List Dword :=
  [d0, d0, z, d4, d0, z, d0, d4, z, 0, 0, 0, 0, 0, 0, 0xFFFFFFFF#64]

/-- The triangle of V-T2 and V-F2, of the opposite winding. -/
def reversed : List Dword := [d0, d0, d0, d0, d4, d0, d4, d0, d0]

/-- The triangle of V-T8, whose determinant is 0. -/
def flatTriangle : List Dword :=
  [d0, d0, d0, 0x4000000000000000#64, 0x4000000000000000#64, d0, d4, d4, d0]

/-- A depth buffer for a 5 by 5 target. -/
def depth5 : DepthBuffer := DepthBuffer.fresh 5 5

/-- The mesh `quad3` of 95_test_vectors.md section 2.12. -/
def quad3 : Mesh :=
  { vertices := [⟨d0, d0, d0⟩, ⟨d4, d0, d0⟩, ⟨d0, d4, d0⟩, ⟨d4, d4, 0x4000000000000000#64⟩]
    faces := [⟨0, 1, 2, 0, 1, 2⟩, ⟨0, 2, 1, 0, 2, 1⟩, ⟨1, 3, 2, 1, 3, 2⟩]
    texPoints := [⟨d0, d0⟩, ⟨dHalf, d0⟩, ⟨d0, dHalf⟩, ⟨dHalf, dHalf⟩] }

/-- V-H0's header with the pixel bytes `b` behind it. -/
def rleFile (b : List Byte) : List Byte :=
  [0x00, 0x00, 0x0A, 0x00, 0x00, 0x00, 0x00, 0x00, 0x00, 0x00, 0x00, 0x00, 0x02, 0x00, 0x02, 0x00, 0x18,
   0x00] ++ b

/-- V-D2's file. -/
def rawFile : List Byte :=
  [0x00, 0x00, 0x02, 0x00, 0x00, 0x00, 0x00, 0x00, 0x03, 0x00, 0x02, 0x01, 0x01, 0x00, 0x02, 0x00, 0x20,
   0x28, 0x10, 0x20, 0x30, 0x40, 0x01, 0x02, 0x03, 0x04, 0xAA, 0xBB]

/-- A decode of a 2 by 2 image in progress, one pixel there, over the bytes `b`; COFF is past a
repetition byte. -/
def decoding (b : List Byte) : State :=
  { withSrc (0x00#8 :: b) with coff := 1, dec := some ⟨.s0, rleHeader 2 2, [0x01020304#32]⟩ }

/-! ## Well-formedness -/

theorem test_wf_refuses_crd_9 : (Instr.crd 9).wf = false := by decide
theorem test_wf_refuses_cpk_9 : (Instr.cpk 9).wf = false := by decide
theorem test_wf_refuses_cac_15 : (Instr.cac 15).wf = false := by decide
theorem test_wf_refuses_tri_texture_is_target : (Instr.tri .s0 (some .s0) true).wf = false := by decide
theorem test_wf_refuses_face_texture_is_target : (Instr.face .s1 (some .s1) false).wf = false := by decide
theorem test_wf_refuses_render_texture_is_target : (Instr.render .s0 (some .s0)).wf = false := by decide

/-! ## Decoding: section 2.1 of 95_test_vectors.md, a word for each constructor -/

theorem test_decode_nop : decode (.cmd32 0x00000000#32) = .ok .nop := by decide
theorem test_decode_pack : decode (.cmd32 0x00000001#32) = .ok .pack := by decide
theorem test_decode_unpack : decode (.cmd32 0x00000002#32) = .ok .unpack := by decide
theorem test_decode_from24 : decode (.cmd32 0x00000003#32) = .ok .from24 := by decide
theorem test_decode_crd : decode (.cmd32 0x00080010#32) = .ok (.crd 8#4) := by decide
theorem test_decode_cpk : decode (.cmd32 0x00010011#32) = .ok (.cpk 1#4) := by decide
theorem test_decode_csk : decode (.cmd32 0x00000012#32) = .ok .csk := by decide
theorem test_decode_cac : decode (.cmd32 0x00050013#32) = .ok (.cac 5#4) := by decide
theorem test_decode_inew : decode (.cmd32 0x00000120#32) = .ok (.inew .s1) := by decide
theorem test_decode_iget : decode (.cmd32 0x00000121#32) = .ok (.iget .s1) := by decide
theorem test_decode_iset : decode (.cmd32 0x00000022#32) = .ok (.iset .s0) := by decide
theorem test_decode_ihdr : decode (.cmd32 0x00000023#32) = .ok .ihdr := by decide
theorem test_decode_idec : decode (.cmd32 0x00000124#32) = .ok (.idec .s1) := by decide
theorem test_decode_ienc : decode (.cmd32 0x00000125#32) = .ok (.ienc .s1) := by decide
theorem test_decode_zclr : decode (.cmd32 0x00000130#32) = .ok (.zclr .s1) := by decide
theorem test_decode_line : decode (.cmd32 0x00000131#32) = .ok (.line .s1) := by decide
theorem test_decode_tri : decode (.cmd32 0x00000E32#32) = .ok (.tri .s0 (some .s1) true) := by decide
theorem test_decode_tri_flat : decode (.cmd32 0x00000832#32) = .ok (.tri .s0 none true) := by decide
theorem test_decode_face : decode (.cmd32 0x00000133#32) = .ok (.face .s1 none false) := by decide
theorem test_decode_render : decode (.cmd32 0x00000534#32) = .ok (.render .s1 (some .s0)) := by decide
theorem test_decode_raw : decode (.rle8 0x7F#8) = .ok (.raw 127#7) := by decide
theorem test_decode_run : decode (.rle8 0x81#8) = .ok (.run 1#7) := by decide

/-- The illegal words of section 2.1. -/
theorem test_illegal_words :
    ([0x000000FF, 0x00000004, 0x00000035, 0x00100000, 0x00001020, 0x00000101, 0x00010020, 0x00000112,
      0x00000123, 0x00000224, 0x00000831, 0x00090010, 0x000F0013, 0x00000232, 0x00000432, 0x00000732,
      0x00000834, 0x00000733] : List Word).all (fun w => (decode (.cmd32 w)).toOption.isNone) = true := by
  decide

theorem test_table_word : decodeTableWord 32 0x00000E32 = some (.tri .s0 (some .s1) true) := by decide
theorem test_table_byte : decodeTableWord 8 0x82 = some (.run 2#7) := by decide

/-! ## Numerics: section 2.3 -/

/-- V-N4: the f64 just below one half rounds to 0. -/
theorem test_round_below_half : (F64.ofBits 0x3FDFFFFFFFFFFFFF#64).nearest = 0 := by decide +kernel

/-- V-N3: 2.5 and -1.5 round away from zero. -/
theorem test_round_ties :
    ((F64.ofBits 0x4004000000000000#64).nearest, (F64.ofBits 0xBFF8000000000000#64).nearest) = (3, -2) := by
  decide +kernel

/-- V-N2: 65536.0 clamps to 65535; V-N1: -0.5 clamps to 0. -/
theorem test_toint_clamps :
    ((F64.ofBits 0x40F0000000000000#64).toint, (F64.ofBits 0xBFE0000000000000#64).toint) = (65535, 0) := by
  decide +kernel

/-- V-N7 with V-F4's quotient: sqrt(512), and 16 divided by it, 0x3FE6A09E667F3BCC. -/
theorem test_sqrt_512 :
    ((F64.ofInt 16).div (len3 ⟨F64.ofInt (-16), F64.zero, F64.ofInt 16⟩)).toBits
      = 0x3FE6A09E667F3BCC#64 := by
  decide +kernel

/-! ## One step of each instruction -/

/-- V-S1. -/
theorem test_nop_clears_report :
    (answer (exec .nop ((withSrc []).errFrom 1#8 2#64 1#64 2#64))).map report
      = some (0#8, 0#64, 0#64, 0#64) := by decide

/-- V-C4: only bits 7:0 of each register are read. -/
theorem test_pack_low_bytes :
    (answer (exec .pack (args [0x1FF#64, 0x100#64, 0xFFFFFFFFFFFFFF01#64, 0#64] State.reset))).map (·.r[0])
      = some 0x00000000FF000100#64 := by decide

/-- V-C6. -/
theorem test_unpack :
    (answer (exec .unpack (args [0xFFFFFFFFDEADBEEF#64] State.reset))).map (·.r.toList)
      = some [0xDE#64, 0xAD#64, 0xBE#64, 0xEF#64] := by decide

/-- V-C7. -/
theorem test_from24 :
    (answer (exec .from24 (args [0x12#64, 0x34#64, 0x56#64] State.reset))).map (·.r[0])
      = some 0x00000000123456FF#64 := by decide

/-- V-K2. -/
theorem test_crd :
    (answer (exec (.crd 2) (withSrc [0x0A, 0x0B, 0x0C]))).map (fun t => (t.r[0], t.r[1], t.coff))
      = some (0x0B0A#64, 2#64, 2) := by decide

/-- V-K12, the read: too few bytes. -/
theorem test_crd_out_of_bounds :
    (answer (exec (.crd 8) { withSrc [0x0A, 0x0B, 0x0C] with coff := 1 })).map
        (fun t => (report t, t.coff))
      = some ((1#8, 8#64, 2#64, 1#64), 1) := by decide

/-- V-K1: a peek does not move COFF. -/
theorem test_cpk :
    (answer (exec (.cpk 2) (withSrc [0x0A, 0x0B, 0x0C]))).map (fun t => (t.r[0], t.coff))
      = some (0x0B0A#64, 0) := by decide

/-- V-K9: the end is a legal position. -/
theorem test_csk_end :
    (answer (exec .csk (args [3#64] (withSrc [0x0A, 0x0B, 0x0C])))).map (fun t => (t.err, t.coff))
      = some (0#8, 3) := by decide

/-- V-K11: all 64 bits of the position count. -/
theorem test_csk_wide :
    (answer (exec .csk { args [0x8000000000000000#64] (withSrc [0x0A, 0x0B, 0x0C]) with coff := 3 })).map
        (fun t => (report t, t.coff))
      = some ((1#8, 0x8000000000000000#64, 3#64, 3#64), 3) := by decide

/-- V-K15: a mismatch in the last byte leaves COFF. -/
theorem test_cac_mismatch :
    (answer (exec (.cac 3)
        { args [0xCEAB02#64] (withSrc [0x00, 0x00, 0x02, 0xAB, 0xCD]) with coff := 2 })).map
        (fun t => (report t, t.coff))
      = some ((2#8, 0xCEAB02#64, 0xCDAB02#64, 2#64), 2) := by decide

/-- V-K19: the bytes of A[0] above the n-th are ignored. -/
theorem test_cac_match :
    (answer (exec (.cac 1)
        { args [0xFFFFFFFFFFFFFF02#64] (withSrc [0x00, 0x00, 0x02, 0xAB, 0xCD]) with coff := 2 })).map
        (fun t => (t.err, t.coff))
      = some (0#8, 3) := by decide

/-- V-I1. -/
theorem test_inew :
    (answer (exec (.inew .s0) (args [2#64, 1#64] State.reset))).map
        (fun t => (t.img0.valid, t.img0.hdr.imageType, t.img0.hdr.width, t.img0.pix.read 1, t.img1.valid))
      = some (true, 2#8, 2#16, 0x000000FF#32, false) := by decide

/-- V-I10. -/
theorem test_inew_too_wide :
    (answer (exec (.inew .s0) (args [65536#64, 1#64] State.reset))).map (fun t => (report t, t.img0.valid))
      = some ((7#8, 0x20#64, 5#64, 0#64), false) := by decide

/-- V-I6, as a read: x is checked apart from y, so (2, 0) is not (0, 1). -/
theorem test_iget_checks_x :
    (answer (exec (.iget .s0) (args [2#64, 0#64] (canvas 2 2)))).map report
      = some (4#8, 2#64, 0#64, 0#64) := by decide

/-- V-I8. -/
theorem test_iget_invalid_slot :
    (answer (exec (.iget .s1) (canvas 2 1))).map report = some (7#8, 0x121#64, 1#64, 0#64) := by decide

/-- V-I3, V-I12: one pixel, of bits 31:0. -/
theorem test_iset :
    (answer (exec (.iset .s0) (args [1#64, 0#64, 0xAAAAAAAA01020304#64] (canvas 2 1)))).map grid
      = some [0x000000FF#32, 0x01020304#32] := by decide

/-- V-H15. -/
theorem test_ihdr :
    (answer (exec .ihdr (withSrc rawFile))).map (fun t => (t.hs, t.coff))
      = some (⟨true, { header 1 2 with xOrigin := 3, yOrigin := 258, imageDescriptor := 0x28 }⟩, 18) := by
  decide

/-- V-H5: the third colour map byte. -/
theorem test_ihdr_map_spec :
    (answer (exec .ihdr (withSrc ([0x00, 0x00, 0x02, 0x00, 0x00, 0x01] ++ List.replicate 12 0x00)))).map
        (fun t => (report t, t.coff, t.hs.valid))
      = some ((2#8, 0#64, 0x0000010000#64, 3#64), 3, false) := by decide

/-- V-D2. -/
theorem test_idec_uncompressed :
    (answer (exec (.idec .s0) (withSrc rawFile))).map (fun t => (t.err, t.coff, grid t))
      = some (0#8, 26, [0x30201040#32, 0x03020104#32]) := by decide +kernel

/-- V-R2: a RUN of 2, then a RAW of 2. -/
theorem test_idec_run_length :
    (answer (exec (.idec .s0) (withSrc (rleFile
        [0x81, 0x10, 0x20, 0x30, 0x01, 0x01, 0x02, 0x03, 0x04, 0x05, 0x06])))).map
        (fun t => (t.err, t.coff, grid t))
      = some (0#8, 29, [0x302010FF#32, 0x302010FF#32, 0x030201FF#32, 0x060504FF#32]) := by decide +kernel

/-- R208: the second of two pixels is cut short; the report is its own. -/
theorem test_raw_cut_short :
    (answer (exec (.raw 1) (decoding [0x01, 0x02, 0x03, 0x04]))).map
        (fun t => (report t, t.coff, t.dec))
      = some ((1#8, 3#64, 1#64, 4#64), 4, none) := by decide

/-- V-R6's order: the overshoot comes before the missing colour. -/
theorem test_run_overshoot :
    (answer (exec (.run 127) (decoding []))).map (fun t => (report t, t.coff, t.dec))
      = some ((6#8, 128#64, 3#64, 0#64), 1, none) := by decide

/-- R209: a RUN of 2 gives two copies of its colour, B, G, R in the file. -/
theorem test_run :
    (answer (exec (.run 1) (decoding [0x10, 0x20, 0x30]))).map (fun t => (t.dec.map (·.pix), t.coff))
      = some (some [0x01020304#32, 0x302010FF#32, 0x302010FF#32], 4) := by decide

/-- V-E1. -/
theorem test_ienc :
    (answer (exec (.ienc .s0) { State.reset with img0 := image 1 1 [0x11223344] })).map
        (fun t => (t.snk.take 17, (t.snk.drop 18).take 5, t.snk.length))
      = some ([0x00, 0x00, 0x02, 0x00, 0x00, 0x00, 0x00, 0x00, 0x00, 0x00, 0x00, 0x00, 0x01, 0x00, 0x01,
          0x00, 0x20], [0x33, 0x22, 0x11, 0x44, 0x00], 48) := by decide +kernel

/-- V-Z1. -/
theorem test_zclr :
    (answer (exec (.zclr .s0) (canvas 2 2))).map
        (fun t => (t.zb.valid, t.zb.w, t.zb.h, t.zb.d.toList 4))
      = some (true, 2#16, 2#16, List.replicate 4 0xFFF0000000000000#64) := by decide

/-- V-Z2. -/
theorem test_zclr_invalid_slot :
    (answer (exec (.zclr .s0) State.reset)).map report = some (7#8, 0x30#64, 1#64, 0#64) := by decide

/-- V-L21: the part outside the image is dropped. -/
theorem test_line_clipped :
    (answer (exec (.line .s0)
        (args [1#64, 1#64, 5#64, 3#64, 0xFFFFFFFF#64] (canvas 3 3)))).map grid
      = some [0xFF, 0xFF, 0xFF, 0xFF, 0xFFFFFFFF, 0xFFFFFFFF, 0xFF, 0xFF, 0xFF] := by decide +kernel

/-- V-L10, with its float trace, and V-L2. -/
theorem test_line_points :
    (linePoints 0 0 5 2, linePoints 4 1 0 0)
      = ([(0, 0), (1, 0), (2, 0), (3, 1), (4, 1), (5, 2)], [(4, 1), (3, 1), (2, 1), (1, 1), (0, 0)]) := by
  decide +kernel

/-- V-T1: all three edges are inclusive. -/
theorem test_tri :
    (answer (exec (.tri .s0 none false) (args (triangle d0) (canvas 5 5)))).map
        (fun t => (grid t).map (· == 0xFFFFFFFF#32))
      = some [true, true, true, true, true,  true, true, true, true, false,  true, true, true, false, false,
          true, true, false, false, false,  true, false, false, false, false] := by decide +kernel

/-- V-T15's rounding: at (3, 0) the texel index is out of range and the fragment is dropped. -/
theorem test_tri_texture :
    (answer (exec (.tri .s0 (some .s1) false)
        (args ([d0, d0, d0, d4, d0, d0, d0, d4, d0] ++ [d0, d0, d1, d0, d0, d1])
          { canvas 5 5 with img1 := image 2 2 [0xAA0000FF, 0x00BB00FF, 0x0000CCFF, 0xEEEEEE80] }))).map
        (fun t => (grid t).take 10)
      = some [0xAA0000FF, 0x00BB00FF, 0x00BB00FF, 0x000000FF, 0x000000FF, 0x0000CCFF, 0xEEEEEE80,
          0xEEEEEE80, 0x000000FF, 0x000000FF] := by decide +kernel

/-- V-F4: intensity 0.7071... gives the grey 180. -/
theorem test_face_shade :
    (answer (exec (.face .s0 none false)
        (args [d0, d0, d0, d4, d0, d4, d0, d4, d0] (canvas 5 5)))).map (fun t => (grid t).getD 6 0)
      = some 0xB4B4B4FF#32 := by decide +kernel

/-- V-F2: turned away from the viewer, culled. -/
theorem test_face_culled :
    (answer (exec (.face .s0 none false) (args reversed (canvas 5 5)))).map (fun t => (t.err, grid t))
      = some (0#8, List.replicate 25 0x000000FF#32) := by decide +kernel

/-- V-M1. -/
theorem test_render :
    (answer (exec (.render .s0 none) { canvas 5 5 with mesh := quad3 })).map
        (fun t => ((grid t).map (· == 0xD0D0D0FF#32), t.zb.valid))
      = some ([false, false, false, false, false,  false, false, false, false, true,
          false, false, false, true, true,  false, false, true, true, true,
          false, true, true, true, true], false) := by decide +kernel

/-- V-M4: the error comes before the depth buffer is made. -/
theorem test_render_invalid_texture :
    (answer (exec (.render .s0 (some .s1)) { canvas 5 5 with zb := depth5 })).map
        (fun t => (report t, t.zb.valid))
      = some ((7#8, 0x634#64, 2#64, 0#64), true) := by decide

/-- V-S3: a load of SRC moves COFF to 0. -/
theorem test_load_src :
    (answer (step { withSrc [0x01, 0x02] with coff := 1, host := [.loadSrc [0x03]] })).map
        (fun t => (t.coff, t.srclen))
      = some (0, 1) := by decide

/-- `withFetchWord` and `step`: the word runs as the first instruction after reset. -/
theorem test_fetch_inew_invalid_operands :
    (answer (step (State.reset.withFetchWord 32 0x120))).map report
      = some (7#8, 0x120#64, 5#64, 0#64) := by decide

/-! ## Witnesses: encoding and steps -/

theorem witness_DecodeOfEncode :
    (Instr.crd 8).wf = true ∧ (Instr.tri .s0 (some .s1) true).wf = true ∧ (Instr.run 127).wf = true := by
  decide

theorem witness_EncodeOfDecode :
    decode (.cmd32 0x00080010#32) = .ok (.crd 8) ∧ decode (.rle8 0xFF#8) = .ok (.run 127) := by decide

theorem witness_LegalWordsSelectTheirRow :
    decode (.cmd32 0x00080010#32) = .ok (.crd 8) ∧
      (commandRows.any fun r => r.selects 0x00080010#32) = true := by decide

/-- A word of each kind: CRD with n = 9 is illegal, with n = 8 it is a command. -/
theorem witness_IllegalWordOnlyReports :
    wordIllegal 0x00090010#32 ∧ ¬ wordIllegal 0x00080010#32 ∧
      ({ State.reset with host := [.command 0x00090010#32] } : State).dec = none := by
  simp [wordIllegal, fieldUse, State.reset]

theorem witness_StepRunsDecodedCommand :
    ({ State.reset with host := [.command 0x00000120#32] } : State).dec = none ∧
      decode (.cmd32 0x00000120#32) = .ok (.inew .s1) := by decide

/-- A repetition byte is there; and, as in V-R8, none is left. -/
theorem witness_StepRunsDecodedPacket :
    (decoding [0x81]).dec.isSome = true ∧ (decoding [0x81]).src[(decoding [0x81]).coff]? = some 0x81#8 ∧
      decode (.rle8 0x81#8) = .ok (.run 1) ∧
      (decoding []).dec.isSome = true ∧ (decoding []).coff = (decoding []).src.length := by decide

/-- A decode in progress with a legal header, and its step. -/
theorem witness_StepKeepsInvariant :
    (decoding [0x81, 0x10, 0x20, 0x30]).Inv ∧ ∃ t, step (decoding [0x81, 0x10, 0x20, 0x30]) = .next t :=
  ⟨⟨by decide, by decide, by decide, by decide, by decide, by decide, by decide⟩, _, rfl⟩

theorem witness_StepKeepsBoundary :
    ∃ t, ({ withSrc rawFile with host := [.command 0x00000124#32] } : State).atBoundary ∧
      step { withSrc rawFile with host := [.command 0x00000124#32] } = .next t := ⟨_, rfl, rfl⟩

/-! ## Witnesses: cursor -/

/-- Eight bytes are there, and one is missing: the boundary of both clauses, for CRD and CPK. -/
theorem witness_CrdReadsBytes :
    ((8#4).toNat ≤ 8 ∧ (withSrc (List.replicate 8 1)).coff ≤ (withSrc (List.replicate 8 1)).src.length ∧
      (8#4).toNat ≤ (withSrc (List.replicate 8 1)).src.length - 0) ∧
    (withSrc (List.replicate 7 1)).src.length - (withSrc (List.replicate 7 1)).coff < (8#4).toNat := by
  decide

theorem witness_CpkPeeksBytes :
    ((0#4).toNat ≤ (withSrc []).src.length - (withSrc []).coff) ∧
    (withSrc []).src.length - (withSrc []).coff < (1#4).toNat := by decide

theorem witness_CskSeeks :
    (args [3#64] (withSrc [1, 2, 3])).a[0].toNat ≤ (withSrc [1, 2, 3]).src.length ∧
    (withSrc [1, 2, 3]).src.length < (args [4#64] (withSrc [1, 2, 3])).a[0].toNat := by decide

/-- V-K16, V-K15, V-K17: the three clauses. -/
theorem witness_CacAccepts :
    ((3#4).toNat ≤ (withSrc [0x02, 0xAB, 0xCD]).src.length - 0 ∧
      leValue [0x02, 0xAB, 0xCD] 0 (3#4).toNat = (0xCDAB02#64).toNat % 2 ^ (8 * (3#4).toNat)) ∧
    leValue [0x02, 0xAB, 0xCD] 0 (3#4).toNat ≠ (0xCEAB02#64).toNat % 2 ^ (8 * (3#4).toNat) ∧
    (withSrc [0x02, 0xAB, 0xCD]).src.length - 3 < (1#4).toNat := by decide

theorem witness_CursorLaws :
    (∃ b, cursorPeek [1, 2] 2 0 = .ok b 0) ∧ (∃ b c, cursorRead [1, 2] 2 0 = .ok b c) ∧
    (∃ r, cursorRead [1] 2 0 = .err r 0) ∧ (∃ r, cursorPeek [1] 2 0 = .err r 0) ∧
    (∃ r, cursorSeek [1] 2 0 = .err r 0) ∧ (∃ r, cursorAccept [1, 2] [1, 3] 0 = .err r 0) ∧
    ∃ t, exec (.cac 0) State.reset = .next t :=
  ⟨⟨_, rfl⟩, ⟨_, _, rfl⟩, ⟨_, rfl⟩, ⟨_, rfl⟩, ⟨_, rfl⟩, ⟨_, rfl⟩, _, rfl⟩

/-! ## Witnesses: codec -/

/-- The largest dimensions, and one and zero too many. -/
theorem witness_InewCreatesBlackImage :
    (let s := args [65535#64, 1#64] State.reset
     1 ≤ s.a[0].toNat ∧ s.a[0].toNat ≤ 65535 ∧ 1 ≤ s.a[1].toNat ∧ s.a[1].toNat ≤ 65535) ∧
    ¬ (args [65536#64, 1#64] State.reset).a[0].toNat ≤ 65535 ∧
    ¬ 1 ≤ (args [1#64, 0#64] State.reset).a[1].toNat := by decide

/-- An invalid slot, the first position outside, the last position inside. -/
theorem witness_IgetReadsPixel :
    (State.reset.img .s0).valid = false ∧ ((canvas 2 3).img .s0).valid = true ∧
    ¬ (args [2#64, 2#64] (canvas 2 3)).a[0].toNat < ((canvas 2 3).img .s0).hdr.width.toNat ∧
    (args [1#64, 2#64] (canvas 2 3)).a[0].toNat < ((canvas 2 3).img .s0).hdr.width.toNat ∧
    (args [1#64, 2#64] (canvas 2 3)).a[1].toNat < ((canvas 2 3).img .s0).hdr.height.toNat := by decide

theorem witness_IsetWritesOnePixel :
    (State.reset.img .s1).valid = false ∧ ((canvas 2 3).img .s0).valid = true ∧
    ((canvas 2 3).img .s0).pix.wf ∧
    (args [1#64, 2#64] (canvas 2 3)).a[0].toNat < ((canvas 2 3).img .s0).hdr.width.toNat ∧
    (args [1#64, 2#64] (canvas 2 3)).a[1].toNat < ((canvas 2 3).img .s0).hdr.height.toNat ∧
    ¬ (args [1#64, 3#64] (canvas 2 3)).a[1].toNat < ((canvas 2 3).img .s0).hdr.height.toNat := by decide

theorem witness_GetAfterSet :
    let s := args [1#64, 2#64, 7#64] (canvas 2 3)
    (s.img .s0).valid = true ∧ (s.img .s0).pix.wf ∧ s.a[0].toNat < (s.img .s0).hdr.width.toNat ∧
    s.a[1].toNat < (s.img .s0).hdr.height.toNat ∧
    ∃ t u v, exec (.iset .s0) s = .next t ∧
      exec (.iget .s0) { t with a := (t.a.set 0 0#64).set 1 2#64 } = .next u ∧
      exec (.iget .s0) { s with a := (s.a.set 0 0#64).set 1 2#64 } = .next v :=
  ⟨by decide, by decide, by decide, by decide, _, _, _, rfl, rfl, rfl⟩

theorem witness_IhdrStagesHeader :
    headerFailure (withSrc rawFile).src (withSrc rawFile).coff = none ∧
      headerFailure [0, 1] 0 = some ⟨2#8, 0#64, 1#64, 1#64, 1⟩ := by decide

/-- V-H3 and V-H11. -/
theorem witness_HeaderErrorsFollowTable :
    headerFailure [0, 0, 3] 0 = some ⟨3#8, 2#64, 3#64, 2#64, 3⟩ ∧
    headerFailure (rawFile.take 17) 0 = some ⟨1#8, 1#64, 0#64, 17#64, 17⟩ ∧
    (withSrc [0, 0, 3]).dec = none := by decide

/-- All pixel bytes there, none beyond, and one byte short. -/
theorem witness_IdecUncompressed :
    (let s := withSrc (rawFile.take 26)
     s.dec = none ∧ headerFailure s.src s.coff = none ∧ (headerAt s.src s.coff).imageType = 2#8 ∧
     s.coff + 18 + 2 * 4 ≤ s.src.length) ∧
    (let s := withSrc (rawFile.take 25)
     headerFailure s.src s.coff = none ∧ s.src.length < s.coff + 18 + 2 * 4) := by decide

/-- V-R2's file. -/
def rleBytes : List Byte := rleFile [0x81, 0x10, 0x20, 0x30, 0x01, 0x01, 0x02, 0x03, 0x04, 0x05, 0x06]

theorem witness_IdecRunLength :
    (withSrc rleBytes).dec = none ∧ headerFailure (withSrc rleBytes).src 0 = none ∧
    (headerAt (withSrc rleBytes).src 0).imageType = 10#8 ∧
    Packets (withSrc rleBytes).src ((headerAt (withSrc rleBytes).src 0).bitsPerPixel.toNat / 8) (0 + 18)
      [0x302010FF#32, 0x302010FF#32, 0x030201FF#32, 0x060504FF#32] 29 ∧
    4 = (headerAt (withSrc rleBytes).src 0).width.toNat * (headerAt (withSrc rleBytes).src 0).height.toNat :=
  ⟨rfl, by decide, by decide,
    .run 18 0x81#8 [0x030201FF#32, 0x060504FF#32] 29 rfl (by decide) (by decide)
      (.raw 22 0x01#8 [] 29 rfl (by decide) (by decide) (.done 29)), by decide⟩

/-- V-R5: a decode that fails in its second packet. -/
theorem witness_FailedIdecKeepsSlot :
    ∃ t, exec (.idec .s0) (withSrc (rleFile [0x82, 0x10, 0x20, 0x30, 0x01, 0x01])) = .next t ∧ t.err ≠ 0#8 :=
  ⟨_, rfl, by decide +kernel⟩

/-- A packet that fills the image, with its last byte and without. -/
theorem witness_RawPacketProducesPixels :
    ∃ d, (decoding (List.replicate 9 1)).dec = some d ∧ d.ok ∧
      d.pix.length + ((2#7).toNat + 1) ≤ d.hdr.width.toNat * d.hdr.height.toNat ∧
      (decoding (List.replicate 9 1)).coff + ((2#7).toNat + 1) * 3
        ≤ (decoding (List.replicate 9 1)).src.length ∧
      (decoding (List.replicate 8 1)).src.length
        < (decoding (List.replicate 8 1)).coff + ((2#7).toNat + 1) * 3 :=
  ⟨_, rfl, by decide, by decide, by decide, by decide⟩

theorem witness_RunPacketReplicatesPixel :
    ∃ d, (decoding [1, 2, 3]).dec = some d ∧ d.ok ∧ (decoding [1, 2, 3]).coff ≤ (decoding [1, 2, 3]).src.length ∧
      d.pix.length + ((2#7).toNat + 1) ≤ d.hdr.width.toNat * d.hdr.height.toNat ∧
      (decoding [1, 2, 3]).coff + 3 ≤ (decoding [1, 2, 3]).src.length ∧
      (decoding [1, 2]).src.length < (decoding [1, 2]).coff + 3 :=
  ⟨_, rfl, by decide, by decide, by decide, by decide, by decide⟩

/-- One pixel more than wanted; no decode in progress. -/
theorem witness_PacketOvershootIsMalformed :
    (∃ d, (decoding []).dec = some d ∧ 0 < (decoding []).coff ∧
      d.hdr.width.toNat * d.hdr.height.toNat < d.pix.length + ((3#7).toNat + 1)) ∧
    State.reset.dec = none := ⟨⟨_, rfl, by decide, by decide⟩, rfl⟩

theorem witness_IencAppendsFile :
    ((canvas 1 1).img .s0).valid = true ∧ ((canvas 1 1).img .s1).valid = false := by decide

theorem witness_EncodeThenDecodeRoundTrip :
    let s : State := { State.reset with img0 := image 2 1 [0x11223344, 0xFF] }
    s.dec = none ∧ (s.img .s0).valid = true ∧ (s.img .s0).ok ∧
      ∃ t, exec (.ienc .s0) { s with snk := [] } = .next t :=
  ⟨rfl, rfl, by decide, _, rfl⟩

/-! ## Witnesses: raster -/

/-- V-T14: the four failing checks, and an operand set that passes. -/
theorem witness_RasterChecksInOrder :
    rasterOperands (.tri .s0 (some .s1) true) = some ⟨.s0, some .s1, true, true⟩ ∧
    (∃ w, encode (.tri .s0 (some .s1) true) = .cmd32 w) ∧
    State.reset.rasterFailure ⟨.s0, some .s1, true, true⟩ = some 1#64 ∧
    (canvas 5 5).rasterFailure ⟨.s0, some .s1, true, true⟩ = some 2#64 ∧
    (canvas 5 5).rasterFailure ⟨.s0, none, true, true⟩ = some 3#64 ∧
    (args [0x7FF8000000000000#64] (canvas 5 5)).rasterFailure ⟨.s0, none, false, true⟩ = some 4#64 ∧
    (args (triangle d0) { canvas 5 5 with zb := depth5 }).rasterFailure ⟨.s0, none, true, true⟩ = none := by
  refine ⟨by decide, ⟨_, rfl⟩, ?_, ?_, ?_, ?_, ?_⟩
  · simp [State.rasterFailure, State.reset, State.img, Image.invalid]
  · simp [State.rasterFailure, State.reset, State.img, Image.invalid, canvas, image]
  · simp [State.rasterFailure, State.reset, State.img, DepthBuffer.invalid, canvas, image]
  · simp [State.rasterFailure, State.reset, State.img, canvas, image, args]
  · simp [State.rasterFailure, State.reset, State.img, canvas, image, header, depth5, DepthBuffer.fresh, args,
      triangle, d0, d4]

theorem witness_ZclrMakesFreshDepth :
    ((canvas 2 2).img .s0).valid = true ∧ ((canvas 2 2).img .s1).valid = false := by decide

theorem witness_LineColorsVisitedPixels :
    ((canvas 3 3).img .s1).valid = false ∧ ((canvas 3 3).img .s0).valid = true ∧
      ((canvas 3 3).img .s0).pix.wf := by decide

/-- Both axes drive, and both have iterations. -/
theorem witness_LineVisitsEachStepOnce :
    ((1 : Int) - 0).natAbs ≤ ((4 : Int) - 0).natAbs ∧ 3 < ((4 : Int) - 0).natAbs ∧
      ((1 : Int) - 0).natAbs < ((2 : Int) - 0).natAbs ∧ 1 < ((2 : Int) - 0).natAbs := by decide

theorem witness_LineSlopeIsRoundedQuotient :
    (65535 : Int).natAbs ≤ 65535 ∧ (-65535 : Int).natAbs ≤ 65535 ∧ (65535 : Int) ≠ 0 ∧ (-65535 : Int) ≠ 0 := by
  decide

theorem witness_LineStaysBetweenEndpoints :
    0 ≤ 65535 ∧ ((10 : Int), (1 : Int)) ∈ linePoints 0 0 10 1 := by decide +kernel

/-- V-T15's triangle and texture, with the depth test. -/
def textured : State :=
  args ([d0, d0, d0, d4, d0, d0, d0, d4, d0] ++ [d0, d0, d1, d0, d0, d1])
    { canvas 5 5 with img1 := image 2 2 [0xAA0000FF, 0x00BB00FF, 0x0000CCFF, 0xEEEEEE80], zb := depth5 }

/-- The triangle of the state is not degenerate in slot 0. -/
theorem not_degenerate {s : State} (h : degenerate (s.target .s0) s.argTriangle = false) :
    ¬ Degenerate (s.img .s0).hdr.width.toNat (s.img .s0).hdr.height.toNat s.operandTriangle := fun e => by
  rw [(degenerate_iff (s.target .s0) s.argTriangle).2 e] at h
  cases h

/-- What that TRI fills. -/
def texturedFill : Fill :=
  { tri := textured.argTriangle, tex := textured.texture (some .s1) textured.argTexCoords, zen := true
    color := textured.argColor 15 }

/-- A pixel without a fragment takes no colour. -/
theorem not_accepts {x y : Nat}
    (h : fragment texturedFill (inverse (edges textured.argTriangle))
      (textured.zb.d.read (linearIndex (textured.imgW .s0) x y)) x y = none)
    (col : Word) : ¬ textured.Accepts .s0 (some .s1) true x y col := fun e => by
  have h2 := (accepts_iff.1 e).2
  rw [texturedFill] at h
  rw [h] at h2
  cases h2

/-- With a texture: pixel (1, 0) takes its texel, pixel (3, 0) has a texel index out of range, and
pixel (4, 4) is outside. -/
theorem witness_TriFillsAcceptedPixels :
    textured.rasterFailure ⟨.s0, some .s1, true, true⟩ = none ∧ (textured.img .s0).pix.wf ∧
      textured.zb.d.wf ∧
      ¬ Degenerate (textured.img .s0).hdr.width.toNat (textured.img .s0).hdr.height.toNat
        textured.operandTriangle ∧
      textured.Accepts .s0 (some .s1) true 1 0 0x00BB00FF ∧
      (∀ col, ¬ textured.Accepts .s0 (some .s1) true 3 0 col) ∧
      ∀ col, ¬ textured.Accepts .s0 (some .s1) true 4 4 col := by
  refine ⟨?_, by decide, by decide, not_degenerate (by decide +kernel),
    accepts_iff.2 ⟨by decide +kernel, by decide +kernel⟩, not_accepts (by decide +kernel),
    not_accepts (by decide +kernel)⟩
  simp [State.rasterFailure, State.reset, State.img, canvas, image, header, depth5, DepthBuffer.fresh, args,
    textured, d0, d1, d4]

theorem witness_DegenerateTriDrawsOutline :
    let s := args flatTriangle (canvas 5 5)
    s.rasterFailure ⟨.s0, none, false, true⟩ = none ∧ (s.img .s0).pix.wf ∧
      Degenerate (s.img .s0).hdr.width.toNat (s.img .s0).hdr.height.toNat s.operandTriangle := by
  refine ⟨?_, by decide, (degenerate_iff ((args flatTriangle (canvas 5 5)).target .s0) _).1 (by decide +kernel)⟩
  simp [State.rasterFailure, State.reset, State.img, canvas, image, args, flatTriangle, d0, d4]

/-- V-F1 and V-F2: a face turned to the viewer and one turned away. -/
theorem witness_FaceCullsOrShades :
    (args (triangle d0) (canvas 5 5)).rasterFailure ⟨.s0, none, false, true⟩ = none ∧
    (intensity (args (triangle d0) (canvas 5 5)).argTriangle).map (·.gt F64.zero) = some true ∧
    (args reversed (canvas 5 5)).rasterFailure ⟨.s0, none, false, true⟩ = none ∧
    (intensity (args reversed (canvas 5 5)).argTriangle).map (·.gt F64.zero) = some false := by
  refine ⟨?_, by decide +kernel, ?_, by decide +kernel⟩
  · simp [State.rasterFailure, State.reset, State.img, canvas, image, args, triangle, d0, d4]
  · simp [State.rasterFailure, State.reset, State.img, canvas, image, args, reversed, d0, d4]

/-- The mesh of V-M1 meets R70, its texture points too. -/
theorem quad3_ok (tex : Bool) : quad3.ok tex := by
  simp [Mesh.ok, Mesh.faceOk, quad3, finiteBits, d0, d4, dHalf]

theorem witness_RenderIsFaceByFace :
    (canvas 5 5).rasterFailure ⟨.s0, none, false, false⟩ = none ∧
      ({ canvas 5 5 with mesh := quad3 } : State).mesh.ok false :=
  ⟨by simp [State.rasterFailure, State.reset, State.img, canvas, image], quad3_ok false⟩

/-- A view that meets R70 and one with a vertex index out of range. -/
theorem witness_RenderCompletes :
    (canvas 5 5).rasterFailure ⟨.s0, none, false, false⟩ = none ∧ ((canvas 5 5).img .s0).pix.wf ∧
    quad3.ok false ∧ ¬ ({ vertices := [], faces := [⟨0, 0, 0, 0, 0, 0⟩], texPoints := [] } : Mesh).ok false :=
  ⟨by simp [State.rasterFailure, State.reset, State.img, canvas, image], by decide, quad3_ok false,
    by simp [Mesh.ok, Mesh.faceOk]⟩

theorem witness_DepthOnlyGrows :
    let s := args (triangle d1) { canvas 5 5 with zb := depth5 }
    Instr.tri .s0 none true ∈ [Instr.tri .s0 none true, .face .s0 none true] ∧
      (s.img .s0).pix.wf ∧ s.zb.d.wf ∧
      ¬ Degenerate (s.img .s0).hdr.width.toNat (s.img .s0).hdr.height.toNat s.operandTriangle ∧
      ∃ t, exec (.tri .s0 none true) s = .next t :=
  ⟨by decide, by decide, by decide, not_degenerate (by decide +kernel), _, rfl⟩

theorem witness_RedrawnTriangleKeepsFirst :
    let s := args (triangle d1) { canvas 5 5 with zb := depth5 }
    (s.img .s0).pix.wf ∧ s.zb.d.wf ∧
      ¬ Degenerate (s.img .s0).hdr.width.toNat (s.img .s0).hdr.height.toNat s.operandTriangle ∧
      ∃ t u, exec (.tri .s0 none true) s = .next t ∧ t.err = 0#8 ∧
        exec (.tri .s0 none true) { t with a := t.a.set 15 5#64 } = .next u :=
  ⟨by decide, by decide, not_degenerate (by decide +kernel), _, _, rfl, by decide, rfl⟩

/-- A textured TRI without depth test, a TRI with depth test, RENDER and a failing ZCLR, each with an
answer; slot 1 is named by none but the first. -/
theorem witness_UnnamedBuffersDoNotMatter :
    (∃ t, exec (.tri .s0 (some .s1) false) textured = .next t) ∧
    (∃ t, exec (.tri .s0 none true) textured = .next t) ∧
    (∃ t, exec (.render .s0 none) textured = .next t ∧ t.err = 0#8) ∧
    (∃ t, exec (.zclr .s0) State.reset = .next t ∧ t.err ≠ 0#8) ∧ Slot.s1 ≠ Slot.s0 :=
  ⟨⟨_, rfl⟩, ⟨_, rfl⟩, ⟨_, rfl, by decide⟩, ⟨_, rfl, by decide⟩, by decide⟩

/-! ## Witnesses: floating point -/

/-- 2^53 + 1 is halfway between two values, and the lower, even one is taken. -/
theorem witness_RoundingIsToNearestEven :
    0 < 1 ∧ roundMag (2 ^ 53 + 1) 1 = 2 ^ 53 ∧ F64.Rep (2 ^ 53 + 2) ∧
      (2 ^ 53 + 2 + roundMag (2 ^ 53 + 1) 1) * 1 = 2 * (2 ^ 53 + 1) :=
  ⟨by decide, by decide +kernel, ⟨2 ^ 52 + 1, 1, by decide, by decide⟩, by decide +kernel⟩

theorem witness_BitPatternsAndValues :
    F64.ofBits d1 ≠ .nan ∧ (F64.ofBits 1#64).Ok ∧ (F64.ofBits 0x7FEFFFFFFFFFFFFF#64) ≠ .nan :=
  ⟨by decide +kernel, ⟨⟨1, 0, by decide, by decide⟩, by decide +kernel⟩, by decide +kernel⟩

/-- Values binary64 has; a zero sum, a zero divisor and one that is not zero. -/
theorem witness_FloatOperationsRoundOnce :
    (F64.nan.Ok ∧ (F64.fin true 0).Ok) ∧ F64.real false 1 + F64.real true 1 = 0 ∧ F64.real true 0 = 0 ∧
      F64.real false 1 ≠ 0 := by
  refine ⟨⟨trivial, ⟨0, 0, by decide, by decide⟩, by decide +kernel⟩, ?_, ?_, ?_⟩
  · rw [F64.real, F64.real, ← add_div]
    simp [F64.signedMag]
  · simp [F64.real, F64.signedMag]
  · rw [F64.real]
    exact div_ne_zero (by simp [F64.signedMag]) (by positivity)

theorem witness_SqrtIsNearest : 0 < 1 ∧ 2 ^ 2098 - 1 < 2 ^ 2098 ∧ F64.Rep 1 :=
  ⟨by decide, by decide +kernel, 1, 0, by decide, by decide⟩

theorem witness_ConversionsAndComparisons : (-131071 : Int).natAbs < 2 ^ 17 ∧ F64.nan = .nan := by decide

/-! ## Witnesses: the whole machine -/

/-- A command that ends well and one that fails. -/
theorem witness_OnlyNamedCommandsWrite :
    (∃ t, exec (.crd 1) (withSrc [1]) = .next t ∧ t.err = 0#8) ∧
    ∃ t, exec (.crd 1) (withSrc []) = .next t ∧ t.err ≠ 0#8 ∧ (Instr.crd 1).isCommand = true :=
  ⟨⟨_, rfl, by decide⟩, _, rfl, by decide, by decide⟩

theorem witness_OnlyNamedBuffersChange :
    (canvas 5 5).dec = none ∧ ∃ t, exec (.tri .s0 none false) (args (triangle d0) (canvas 5 5)) = .next t :=
  ⟨rfl, _, rfl⟩

/-- A failure for each of the three clauses. -/
theorem witness_ErrorsArePrecise :
    (∃ t, exec (.line .s0) State.reset = .next t ∧ t.err ≠ 0#8) ∧
    (∃ t, exec .ihdr State.reset = .next t ∧ t.err ≠ 0#8) ∧
    (∃ t, exec (.idec .s0) State.reset = .next t ∧ t.err ≠ 0#8) ∧ State.reset.dec = none :=
  ⟨⟨_, rfl, by decide⟩, ⟨_, rfl, by decide⟩, ⟨_, rfl, by decide⟩, rfl⟩

theorem witness_KindsAreRaisedByTheirCommands :
    (Instr.zclr .s0).isCommand = true ∧ ∃ t, exec (.zclr .s0) State.reset = .next t ∧ t.err = 7#8 :=
  ⟨by decide, _, rfl, by decide⟩

theorem witness_EveryCommandCompletes :
    (Instr.render .s0 none).isCommand = true ∧ ({ canvas 5 5 with mesh := quad3 } : State).mesh.ok false :=
  ⟨by decide, quad3_ok false⟩

/-- Every clause: the queue holds the action, no decode is in progress. -/
theorem witness_HostActionsEffects :
    (∀ act : HostAction, ({ State.reset with host := [act] } : State).dec = none ∧
      ({ State.reset with host := [act] } : State).host = act :: []) ∧
    0x6A ∉ List.range' 1 10 ++ List.range' 0x20 11 ∧ 0x63 ∈ List.range' 0x60 4 :=
  ⟨fun _ => ⟨rfl, rfl⟩, by decide, by decide⟩

end Sys2Proof.Tests
end

section
/-! The packet loop of IDEC and single packet steps (43_codec.md R207, R210; log 5). An iteration either ends
the decode or produces at least one pixel and stays short of the image's area, so the pixels still
missing bound the iterations. -/

namespace Sys2Proof.Machine

/-! ## One iteration -/

/-- `d'` is `d` after a packet that left the loop going: the same header, more of its pixels. -/
def Decoding.Advances (d d' : Decoding) : Prop :=
  d'.hdr = d.hdr ∧ d.pix.length < d'.pix.length ∧ d'.pix.length < d.hdr.area

theorem Decoding.Advances.ok {d d' : Decoding} (h : d.Advances d') (hd : d.ok) : d'.ok := by
  obtain ⟨hhdr, -, hlt⟩ := h
  obtain ⟨hlegal, htype, -⟩ := hd
  exact ⟨hhdr ▸ hlegal, hhdr ▸ htype, hhdr ▸ hlt⟩

theorem producePixels_advances (s : State) (d : Decoding) {ps : List Word} (c : Nat) (hps : 0 < ps.length) :
    ∀ d' ∈ (s.producePixels d ps c).dec, d.Advances d' := by
  rcases producePixels_cases s d ps c with ⟨hlt, e⟩ | ⟨-, e⟩
  · rw [e]
    rintro d' ⟨rfl⟩
    exact ⟨rfl, by simpa using hps, hlt⟩
  · simp [e]

theorem packetBody_advances {cnt : Nat} {payload : Nat → Scan (List Word)} (d : Decoding) (s : State)
    (hpos : ∀ o ps c, payload o = .ok ps c → 0 < ps.length) :
    ∀ d' ∈ (packetBody cnt payload d s).dec, d.Advances d' := by
  rcases packetBody_cases cnt payload d s with ⟨-, e⟩ | ⟨-, r, c, -, e⟩ | ⟨-, ps, c, hp, e⟩
  · simp [e]
  · simp [e]
  · rw [e]
    exact producePixels_advances s d c (hpos _ ps c hp)

theorem rawBody_advances (n : BitVec 7) (d : Decoding) (s : State) :
    ∀ d' ∈ (rawBody n d s).dec, d.Advances d' :=
  packetBody_advances d s fun _ _ _ h => by
    obtain ⟨hlen, -, -⟩ := rawPacket_ok h
    exact hlen ▸ packetCount_pos n

theorem runBody_advances (n : BitVec 7) (d : Decoding) (s : State) :
    ∀ d' ∈ (runBody n d s).dec, d.Advances d' :=
  packetBody_advances d s fun _ _ _ h => by
    obtain ⟨-, rfl, -⟩ := runPacket_ok h
    simpa using packetCount_pos n

/-- An iteration of the packet loop ends the decode or advances it. -/
theorem packetIteration_advances (d : Decoding) (s : State) :
    ∀ d' ∈ (packetIteration d s).dec, d.Advances d' := by
  unfold packetIteration
  rcases fetchRep_cases s with ⟨-, e⟩ | ⟨-, e⟩
  · simp [e]
  · simp only [e]
    split
    · exact runBody_advances _ d _
    · exact rawBody_advances _ d _

/-! ## The loop -/

theorem packetLoop_of_dec_none {s : State} (hs : s.dec = none) (fuel : Nat) : packetLoop fuel s = s := by
  cases fuel <;> simp [packetLoop, hs]

theorem packetLoop_succ_of_dec {s : State} {d : Decoding} (hs : s.dec = some d) (fuel : Nat) :
    packetLoop (fuel + 1) s = packetLoop fuel (packetIteration d s) := by
  simp [packetLoop, hs]

/-- The loop's invariant and measure: a decode in progress still lacks pixels, at most `fuel` of them. -/
def Decoding.NeedsAtMost (d : Decoding) (fuel : Nat) : Prop :=
  d.ok ∧ d.hdr.area ≤ d.pix.length + fuel

theorem Decoding.Advances.needsAtMost {d d' : Decoding} {fuel : Nat} (h : d.Advances d')
    (hd : d.NeedsAtMost (fuel + 1)) : d'.NeedsAtMost fuel := by
  obtain ⟨hok, hneed⟩ := hd
  have hok' := h.ok hok
  obtain ⟨hhdr, hmore, -⟩ := h
  refine ⟨hok', ?_⟩
  rw [hhdr]
  omega

/-- With fuel for the missing pixels the loop ends the decode, and it is single steps, no more of them
than it has fuel. -/
theorem packetLoop_is_steps {fuel : Nat} {s : State} (h : ∀ d ∈ s.dec, d.NeedsAtMost fuel) :
    (packetLoop fuel s).dec = none ∧
      ∃ n ≤ fuel, Host.Core.run Sys2Proof.core n s = .next (packetLoop fuel s) := by
  induction fuel generalizing s with
  | zero =>
    cases hs : s.dec with
    | none => exact ⟨hs, 0, le_refl _, rfl⟩
    | some d =>
      obtain ⟨⟨-, -, hlt⟩, hle⟩ := h d hs
      omega
  | succ fuel ih =>
    cases hs : s.dec with
    | none =>
      rw [packetLoop_of_dec_none hs]
      exact ⟨hs, 0, Nat.zero_le _, rfl⟩
    | some d =>
      have hnext : ∀ d' ∈ (packetIteration d s).dec, d'.NeedsAtMost fuel := fun d' hd' =>
        (packetIteration_advances d s d' hd').needsAtMost (h d hs)
      obtain ⟨hend, n, hn, hrun⟩ := ih hnext
      rw [packetLoop_succ_of_dec hs]
      exact ⟨hend, n + 1, Nat.succ_le_succ hn, run_next Sys2Proof.core (step_of_dec hs) hrun⟩

/-! ## IDEC -/

theorem Header.legal.area_pos {h : Header} (hl : h.legal) : 0 < h.area := by
  obtain ⟨-, -, -, -, hw, hh, -⟩ := hl
  exact Nat.mul_pos (Nat.pos_of_ne_zero (BitVec.toNat_ne.1 hw)) (Nat.pos_of_ne_zero (BitVec.toNat_ne.1 hh))

/-- The decode IDEC begins, if it begins one: slot `k`, the header at COFF, no pixel yet (R205, R210). -/
theorem idecBegin_dec {k : Slot} {s : State} :
    ∀ d ∈ (idecBegin k s).dec, d = ⟨k, headerAt s.src s.coff, []⟩ ∧ d.ok := by
  rcases idecBegin_cases k s with
    ⟨e, c, -, eq⟩ | ⟨hdr, c, hp, ⟨-, e, c', -, eq⟩ | ⟨-, pix, c', -, eq⟩ | ⟨htype, eq⟩⟩
  · simp [eq]
  · simp [eq]
  · simp [eq]
  · obtain ⟨-, rfl, hlegal, -⟩ := parseHeader_ok hp
    rw [eq]
    rintro d ⟨rfl⟩
    have ⟨_, _, htypes, _⟩ := hlegal
    exact ⟨rfl, hlegal, htypes.resolve_left htype, hlegal.area_pos⟩

/-- A decode in progress runs to its end by single steps, no more of them than
its image has pixels. -/
theorem idecFinish_is_steps {s : State} {bound : Nat}
    (h : ∀ d ∈ s.dec, d.ok ∧ d.hdr.area ≤ bound) :
    (idecFinish s).dec = none ∧
      ∃ n ≤ bound, Host.Core.run Sys2Proof.core n s = .next (idecFinish s) := by
  unfold idecFinish
  cases hs : s.dec with
  | none => exact ⟨hs, 0, Nat.zero_le _, rfl⟩
  | some d =>
    obtain ⟨hok, hbound⟩ := h d hs
    have hneeds : ∀ d' ∈ s.dec, d'.NeedsAtMost d.hdr.area := by
      rw [hs]
      rintro d' ⟨rfl⟩
      exact ⟨hok, Nat.le_add_left _ _⟩
    obtain ⟨hend, n, hn, hrun⟩ := packetLoop_is_steps hneeds
    exact ⟨hend, n, hn.trans hbound, hrun⟩

/-- Settles O11: IDEC's decode begins with all of its pixels missing, and each packet step produces one
at least or ends it. -/
theorem idecIsItsPacketSteps : Obligations.IdecIsItsPacketSteps := by
  intro k s
  have hbegin : ∀ d ∈ (idecBegin k s).dec,
      d.ok ∧ d.hdr.area ≤ (headerAt s.src s.coff).area := fun d hd => by
    obtain ⟨rfl, hok⟩ := idecBegin_dec d hd
    exact ⟨hok, le_refl _⟩
  obtain ⟨hend, n, hn, hrun⟩ := idecFinish_is_steps hbegin
  exact ⟨n, idecFinish (idecBegin k s), hn, rfl, hend, hrun⟩

end Sys2Proof.Machine
end

section
/-! What each command can do, said once: `exec` of the instruction by the ways its meaning can end, each
with the next state it leaves. -/

namespace Sys2Proof.Machine

variable {s t : State}

/-! ## Cursor commands (42_cursor.md) -/

/-- CRD and CPK write COFF and two result registers, or raise (R180, R181). -/
theorem cursorBytes_cases (n : BitVec 4) (x : Scan (List Byte)) (s : State) :
    (∃ b c, x = .ok b c ∧ cursorBytes n x s = (s.setCoff c).setBytes b n) ∨
      ∃ e c, x = .err e c ∧ cursorBytes n x s = s.scanFailed e c := by
  cases x with
  | ok b c => exact .inl ⟨b, c, rfl, rfl⟩
  | err e c => exact .inr ⟨e, c, rfl, rfl⟩

/-- CSK and CAC write COFF, or raise (R182, R183). -/
theorem cursorMove_cases (x : Scan Unit) (s : State) :
    (∃ u c, x = .ok u c ∧ cursorMove x s = s.setCoff c) ∨
      ∃ e c, x = .err e c ∧ cursorMove x s = s.scanFailed e c := by
  cases x with
  | ok u c => exact .inl ⟨u, c, rfl, rfl⟩
  | err e c => exact .inr ⟨e, c, rfl, rfl⟩

/-! ## Image commands (43_codec.md) -/

theorem dimensionOk_iff {n : Nat} : dimensionOk n = true ↔ 1 ≤ n ∧ n ≤ 65535 := by
  simp [dimensionOk]

theorem exec_inew_cases {k : Slot} (h : exec (.inew k) s = .next t) :
    (∃ w h : Nat, dimensionOk w = true ∧ dimensionOk h = true ∧ t = s.clearReport.setImg k
        { valid := true, hdr := newHeader (BitVec.ofNat 16 w) (BitVec.ofNat 16 h), pix := Memory.empty }) ∨
      t = s.clearReport.raiseIllegal (cmdWord (.inew k)) .dimension := by
  simp only [exec, execInew] at h
  split at h
  · next hd =>
    obtain ⟨hw, hh⟩ := Bool.and_eq_true_iff.1 hd
    cases h
    exact .inl ⟨_, _, hw, hh, rfl⟩
  · cases h
    exact .inr rfl

theorem exec_iget_cases {k : Slot} (h : exec (.iget k) s = .next t) :
    (∃ v, t = s.clearReport.setR 0 v) ∨ ∃ e, t = s.clearReport.raise e := by
  simp only [exec, execIget] at h
  split at h
  · split at h <;> cases h
    · exact .inl ⟨_, rfl⟩
    · exact .inr ⟨_, rfl⟩
  · cases h
    exact .inr ⟨_, rfl⟩

theorem exec_iset_cases {k : Slot} (h : exec (.iset k) s = .next t) :
    ((s.img k).valid = true ∧ s.inImage k (s.argFull 0) (s.argFull 1) = true ∧
        t = s.clearReport.setPix k
          ((s.img k).pix.write (linearIndex (s.imgW k) (s.argFull 0) (s.argFull 1)) (s.argColor 2))) ∨
      ∃ e, t = s.clearReport.raise e := by
  simp only [exec, execIset] at h
  split at h
  · next hv =>
    split at h <;> cases h
    · next hin => exact .inl ⟨hv, hin, rfl⟩
    · exact .inr ⟨_, rfl⟩
  · cases h
    exact .inr ⟨_, rfl⟩

theorem exec_ihdr_cases (h : exec .ihdr s = .next t) :
    (∃ hdr c, parseHeader s.src s.coff = .ok hdr c ∧ t = (s.clearReport.setCoff c).setHs hdr) ∨
      ∃ e c, parseHeader s.src s.coff = .err e c ∧ t = s.clearReport.scanFailed e c := by
  simp only [exec, execIhdr] at h
  split at h <;> cases h
  · next hp => exact .inl ⟨_, _, hp, rfl⟩
  · next hp => exact .inr ⟨_, _, hp, rfl⟩

theorem exec_ienc_cases {k : Slot} (h : exec (.ienc k) s = .next t) :
    t = s.clearReport.snkAppend (encodeFile (s.img k)) ∨
      t = s.clearReport.raiseIllegal (cmdWord (.ienc k)) .slot := by
  simp only [exec, execIenc] at h
  split at h <;> cases h
  · exact .inl rfl
  · exact .inr rfl

/-- RAW and RUN have a meaning only in a decode in progress (R102). -/
theorem exec_raw_cases {n : BitVec 7} (h : exec (.raw n) s = .next t) :
    ∃ d, s.dec = some d ∧ t = rawBody n d s := by
  simp only [exec, execRaw] at h
  split at h <;> cases h
  next hd => exact ⟨_, hd, rfl⟩

theorem exec_run_cases {n : BitVec 7} (h : exec (.run n) s = .next t) :
    ∃ d, s.dec = some d ∧ t = runBody n d s := by
  simp only [exec, execRun] at h
  split at h <;> cases h
  next hd => exact ⟨_, hd, rfl⟩

/-! ## Raster commands (44_rasterizer.md) -/

theorem exec_zclr_cases {k : Slot} (h : exec (.zclr k) s = .next t) :
    t = s.clearReport.setZb (DepthBuffer.fresh (s.img k).hdr.width (s.img k).hdr.height) ∨
      t = s.clearReport.raiseIllegal (cmdWord (.zclr k)) .slot := by
  simp only [exec, execZclr] at h
  split at h <;> cases h
  · exact .inl rfl
  · exact .inr rfl

theorem exec_line_cases {k : Slot} (h : exec (.line k) s = .next t) :
    ((s.img k).valid = true ∧ t = s.clearReport.setPix k
        (drawLine (s.target k) (s.argCoord 0) (s.argCoord 1) (s.argCoord 2) (s.argCoord 3)
          (s.argColor 4) (s.img k).pix)) ∨
      t = s.clearReport.raiseIllegal (cmdWord (.line k)) .slot := by
  simp only [exec, execLine] at h
  split at h <;> cases h
  · next hv => exact .inl ⟨hv, rfl⟩
  · exact .inr rfl

theorem exec_tri_cases {k : Slot} {tex : Option Slot} {zen : Bool}
    (h : exec (.tri k tex zen) s = .next t) :
    (s.fillCheck k tex zen = none ∧ t = s.clearReport.setCanvas k
        (fillTriangle (s.target k)
          { tri := s.argTriangle, tex := s.texture tex s.argTexCoords, zen := zen,
            color := s.argColor 15 }
          (s.canvas k))) ∨
      ∃ r, t = s.clearReport.raiseIllegal (cmdWord (.tri k tex zen)) r := by
  simp only [exec, execTri] at h
  split at h <;> cases h
  · exact .inr ⟨_, rfl⟩
  · next hc => exact .inl ⟨hc, rfl⟩

theorem exec_face_cases {k : Slot} {tex : Option Slot} {zen : Bool}
    (h : exec (.face k tex zen) s = .next t) :
    (s.fillCheck k tex zen = none ∧ t = s.clearReport.setCanvas k
        (shadeAndFill (s.target k) s.argTriangle (s.texture tex s.argTexCoords) zen (s.canvas k))) ∨
      ∃ r, t = s.clearReport.raiseIllegal (cmdWord (.face k tex zen)) r := by
  simp only [exec, execFace] at h
  split at h <;> cases h
  · exact .inr ⟨_, rfl⟩
  · next hc => exact .inl ⟨hc, rfl⟩

/-- RENDER over a view that breaks a precondition of R70 has no next state. -/
theorem exec_render_cases {k : Slot} {tex : Option Slot} (h : exec (.render k tex) s = .next t) :
    (s.targetCheck k tex = none ∧ ∃ ts, t = (s.clearReport.setPix k
        (renderFaces s k tex ts { pix := (s.img k).pix, depth := Memory.empty }).pix).setZb
          DepthBuffer.invalid) ∨
      ∃ r, t = s.clearReport.raiseIllegal (cmdWord (.render k tex)) r := by
  simp only [exec, execRender] at h
  split at h
  · cases h
    exact .inr ⟨_, rfl⟩
  · next hc =>
    split at h <;> cases h
    exact .inl ⟨hc, _, rfl⟩

/-! ## Host actions (70_reset_and_hazards.md R339) -/

/-- A host action that writes no command word reads, or replaces one thing, or resets. -/
theorem hostEffect_cases {act : HostAction} (h : hostEffect act s = .next t) :
    t = s ∨ (∃ b, t = s.loadSrc b) ∨ (∃ i v, t = s.setA i v) ∨ t = s.emptySnk ∨ (∃ m, t = s.setMesh m) ∨
      t = s.resetEvent := by
  cases act with
  | loadSrc b => cases h; exact .inr (.inl ⟨b, rfl⟩)
  | writeReg num v =>
    simp only [hostEffect, hostWriteReg] at h
    split at h <;> cases h
    exact .inr (.inr (.inl ⟨_, v, rfl⟩))
  | readReg num =>
    simp only [hostEffect, hostReadReg] at h
    split at h <;> cases h
    exact .inl rfl
  | emptySnk => cases h; exact .inr (.inr (.inr (.inl rfl)))
  | setMesh m => cases h; exact .inr (.inr (.inr (.inr (.inl ⟨m, rfl⟩))))
  | reset => cases h; exact .inr (.inr (.inr (.inr (.inr rfl))))
  | command w => cases h; exact .inl rfl
  | readSnk => cases h; exact .inl rfl
  | readPix k => cases h; exact .inl rfl
  | readDepth => cases h; exact .inl rfl

end Sys2Proof.Machine
end

section
/-! Which registers and streams an instruction leaves alone (10_state.md R21 to R26, R35), and that no
command leaves a decode in progress (R41). -/

namespace Sys2Proof.Machine

variable {s t u : State}

/-! ## IDEC and its packets -/

/-- `t` is `s` but for COFF, the report, the image slots and the decode in progress. -/
structure State.PacketFrame (s t : State) : Prop where
  a : t.a = s.a
  r : t.r = s.r
  src : t.src = s.src
  snk : t.snk = s.snk
  hs : t.hs = s.hs
  zb : t.zb = s.zb
  mesh : t.mesh = s.mesh
  host : t.host = s.host

theorem State.PacketFrame.refl (s : State) : s.PacketFrame s := ⟨rfl, rfl, rfl, rfl, rfl, rfl, rfl, rfl⟩

theorem State.PacketFrame.trans (h : s.PacketFrame t) (g : t.PacketFrame u) : s.PacketFrame u :=
  ⟨g.a.trans h.a, g.r.trans h.r, g.src.trans h.src, g.snk.trans h.snk, g.hs.trans h.hs,
    g.zb.trans h.zb, g.mesh.trans h.mesh, g.host.trans h.host⟩

theorem abortDecode_frame (s : State) (e : Report) (c : Nat) : s.PacketFrame (s.abortDecode e c) :=
  ⟨rfl, rfl, rfl, rfl, rfl, rfl, rfl, rfl⟩

theorem producePixels_frame (s : State) (d : Decoding) (ps : List Word) (c : Nat) :
    s.PacketFrame (s.producePixels d ps c) := by
  rcases producePixels_cases s d ps c with ⟨-, e⟩ | ⟨-, e⟩
  · rw [e]
    exact ⟨rfl, rfl, rfl, rfl, rfl, rfl, rfl, rfl⟩
  · rw [e]
    exact ⟨rfl, rfl, rfl, rfl, rfl, rfl, rfl, rfl⟩

theorem packetBody_frame (cnt : Nat) (payload : Nat → Scan (List Word)) (d : Decoding) (s : State) :
    s.PacketFrame (packetBody cnt payload d s) := by
  rcases packetBody_cases cnt payload d s with ⟨-, e⟩ | ⟨-, r, c, -, e⟩ | ⟨-, ps, c, -, e⟩
  · exact e ▸ abortDecode_frame s _ _
  · exact e ▸ abortDecode_frame s r c
  · exact e ▸ producePixels_frame s d ps c

theorem packetIteration_frame (d : Decoding) (s : State) : s.PacketFrame (packetIteration d s) := by
  unfold packetIteration
  rcases fetchRep_cases s with ⟨-, e⟩ | ⟨-, e⟩
  · simp only [e]
    exact abortDecode_frame s _ _
  · have hfetch : s.PacketFrame (s.setCoff (s.coff + 1)) := ⟨rfl, rfl, rfl, rfl, rfl, rfl, rfl, rfl⟩
    simp only [e]
    split
    · exact hfetch.trans (packetBody_frame _ _ d _)
    · exact hfetch.trans (packetBody_frame _ _ d _)

theorem packetLoop_frame (fuel : Nat) (s : State) : s.PacketFrame (packetLoop fuel s) := by
  induction fuel generalizing s with
  | zero => exact .refl s
  | succ fuel ih =>
    cases hs : s.dec with
    | none =>
      rw [packetLoop_of_dec_none hs]
      exact .refl s
    | some d =>
      rw [packetLoop_succ_of_dec hs]
      exact (packetIteration_frame d s).trans (ih _)

theorem idecFinish_frame (s : State) : s.PacketFrame (idecFinish s) := by
  unfold idecFinish
  split
  · exact .refl s
  · exact packetLoop_frame _ s

/-- Beyond what its packets write IDEC writes HS alone (R210). -/
theorem execIdec_frame (k : Slot) (s : State) :
    ∃ hs, State.PacketFrame { s with hs := hs } (idecFinish (idecBegin k s)) := by
  suffices hbegin : ∃ hs, State.PacketFrame { s with hs := hs } (idecBegin k s) by
    obtain ⟨hs, hframe⟩ := hbegin
    exact ⟨hs, hframe.trans (idecFinish_frame _)⟩
  rcases idecBegin_cases k s with
    ⟨e, c, -, eq⟩ | ⟨hdr, c, -, ⟨-, e, c', -, eq⟩ | ⟨-, pix, c', -, eq⟩ | ⟨-, eq⟩⟩
  · exact ⟨s.hs, eq ▸ ⟨rfl, rfl, rfl, rfl, rfl, rfl, rfl, rfl⟩⟩
  all_goals exact ⟨⟨true, hdr⟩, eq ▸ ⟨rfl, rfl, rfl, rfl, rfl, rfl, rfl, rfl⟩⟩

/-- IDEC runs its packet loop to the end (R346). -/
theorem execIdec_dec (k : Slot) (s : State) : (idecFinish (idecBegin k s)).dec = none :=
  (idecFinish_is_steps (bound := (headerAt s.src s.coff).area) fun d hd => by
    obtain ⟨rfl, hok⟩ := idecBegin_dec d hd
    exact ⟨hok, le_refl _⟩).1

/-! ## All instructions -/

/-- The commands that write R (R22). -/
def resultWriters : List String := ["PACK", "UNPACK", "FROM24", "CRD", "CPK", "IGET"]

/-- The instructions that write COFF (R24). -/
def coffWriters : List String := ["CRD", "CSK", "CAC", "IHDR", "IDEC", "RAW", "RUN"]

/-- What instruction `i` leaves alone on its way from `s` to `t`: the rules that name the writers of the
registers, the streams and the decode, one field each. Between commands the last field is that none
is in progress afterwards. -/
structure Leaves (i : Instr) (s t : State) : Prop where
  a : t.a = s.a
  src : t.src = s.src
  mesh : t.mesh = s.mesh
  host : t.host = s.host
  r : t.r = s.r ∨ (t.err = 0#8 ∧ mnemonicOf i ∈ resultWriters)
  coff : t.coff = s.coff ∨ mnemonicOf i ∈ coffWriters
  snk : t.snk = s.snk ∨ ∃ f, t.snk = s.snk ++ f ∧ mnemonicOf i = "IENC"
  hs : t.hs = s.hs ∨ mnemonicOf i ∈ ["IHDR", "IDEC"]
  dec : t.dec = s.dec ∨ t.dec = none ∨ s.dec ≠ none

/-- `t` is `s` but for the report, the image slots and the depth buffer. -/
structure State.BuffersOnly (s t : State) : Prop where
  a : t.a = s.a
  r : t.r = s.r
  coff : t.coff = s.coff
  src : t.src = s.src
  snk : t.snk = s.snk
  hs : t.hs = s.hs
  mesh : t.mesh = s.mesh
  dec : t.dec = s.dec
  host : t.host = s.host

theorem State.BuffersOnly.leaves (h : s.BuffersOnly t) (i : Instr) : Leaves i s t :=
  ⟨h.a, h.src, h.mesh, h.host, .inl h.r, .inl h.coff, .inl h.snk, .inl h.hs, .inl h.dec⟩

theorem clearReport_buffersOnly (s : State) : s.BuffersOnly s.clearReport :=
  ⟨rfl, rfl, rfl, rfl, rfl, rfl, rfl, rfl, rfl⟩

theorem raise_buffersOnly (s : State) (e : Report) : s.BuffersOnly (s.clearReport.raise e) :=
  ⟨rfl, rfl, rfl, rfl, rfl, rfl, rfl, rfl, rfl⟩

theorem setImg_buffersOnly (s : State) (k : Slot) (im : Image) :
    s.BuffersOnly (s.clearReport.setImg k im) := ⟨rfl, rfl, rfl, rfl, rfl, rfl, rfl, rfl, rfl⟩

theorem State.BuffersOnly.setZb (h : s.BuffersOnly t) (z : DepthBuffer) : s.BuffersOnly (t.setZb z) :=
  ⟨h.a, h.r, h.coff, h.src, h.snk, h.hs, h.mesh, h.dec, h.host⟩

/-- A command that ends without error and writes R, and COFF if it may. -/
theorem leaves_of_results {i : Instr} {c : Nat} {r : Vector Dword 4}
    (hi : mnemonicOf i ∈ resultWriters) (hc : c = s.coff ∨ mnemonicOf i ∈ coffWriters) :
    Leaves i s { s.clearReport with r := r, coff := c } :=
  ⟨rfl, rfl, rfl, rfl, .inr ⟨rfl, hi⟩, hc, .inl rfl, .inl rfl, .inl rfl⟩

/-- A command that writes COFF and the buffers. -/
theorem leaves_of_coff {i : Instr} (ht : s.BuffersOnly { t with coff := s.coff })
    (hc : t.coff = s.coff ∨ mnemonicOf i ∈ coffWriters) : Leaves i s t :=
  ⟨ht.a, ht.src, ht.mesh, ht.host, .inl ht.r, hc, .inl ht.snk, .inl ht.hs, .inl ht.dec⟩

theorem scanFailed_buffersOnly (s : State) (e : Report) (c : Nat) :
    s.BuffersOnly { s.clearReport.scanFailed e c with coff := s.coff } :=
  ⟨rfl, rfl, rfl, rfl, rfl, rfl, rfl, rfl, rfl⟩

theorem setCoff_buffersOnly (s : State) (c : Nat) :
    s.BuffersOnly { s.clearReport.setCoff c with coff := s.coff } :=
  ⟨rfl, rfl, rfl, rfl, rfl, rfl, rfl, rfl, rfl⟩

/-- CSK and CAC write COFF alone, whether they succeed or raise. -/
theorem leaves_of_cursorMove {i : Instr} (hi : mnemonicOf i ∈ ["CSK", "CAC"]) (x : Scan Unit) :
    Leaves i s (cursorMove x s.clearReport) := by
  have hwriter : mnemonicOf i ∈ coffWriters := by
    simp only [coffWriters, List.mem_cons] at hi ⊢
    tauto
  rcases cursorMove_cases x s.clearReport with ⟨_, c, -, e⟩ | ⟨r, c, -, e⟩
  · exact e ▸ leaves_of_coff (setCoff_buffersOnly s c) (.inr hwriter)
  · exact e ▸ leaves_of_coff (scanFailed_buffersOnly s r c) (.inr hwriter)

/-- CRD may leave COFF anywhere, CPK leaves it where it was. -/
theorem leaves_of_cursorBytes {i : Instr} (n : BitVec 4) {x : Scan (List Byte)}
    (hi : mnemonicOf i ∈ ["CRD", "CPK"]) (hx : x.coff = s.coff ∨ mnemonicOf i = "CRD") :
    Leaves i s (cursorBytes n x s.clearReport) := by
  have hcoff : x.coff = s.coff ∨ mnemonicOf i ∈ coffWriters :=
    hx.imp_right fun h => by simp [h, coffWriters]
  have hwriter : mnemonicOf i ∈ resultWriters := by
    simp only [resultWriters, List.mem_cons] at hi ⊢
    tauto
  rcases cursorBytes_cases n x s.clearReport with ⟨b, c, rfl, e⟩ | ⟨r, c, rfl, e⟩
  · exact e ▸ leaves_of_results hwriter hcoff
  · exact e ▸ leaves_of_coff (scanFailed_buffersOnly s r c) hcoff

/-- A packet of a decode in progress. -/
theorem leaves_of_packet {i : Instr} {d : Decoding} (hi : mnemonicOf i ∈ ["RAW", "RUN"])
    (hd : s.dec = some d) (h : s.PacketFrame t) : Leaves i s t :=
  ⟨h.a, h.src, h.mesh, h.host, .inl h.r,
    .inr (by simp only [coffWriters, List.mem_cons] at hi ⊢; tauto), .inl h.snk, .inl h.hs,
    .inr (.inr (by simp [hd]))⟩

/-- What every instruction leaves alone. -/
theorem exec_leaves {i : Instr} (h : exec i s = .next t) : Leaves i s t := by
  cases i with
  | nop => cases h; exact (clearReport_buffersOnly s).leaves _
  | pack => cases h; exact leaves_of_results (by simp [mnemonicOf, resultWriters]) (.inl rfl)
  | unpack => cases h; exact leaves_of_results (by simp [mnemonicOf, resultWriters]) (.inl rfl)
  | from24 => cases h; exact leaves_of_results (by simp [mnemonicOf, resultWriters]) (.inl rfl)
  | crd n => cases h; exact leaves_of_cursorBytes n (by simp [mnemonicOf]) (.inr rfl)
  | cpk n => cases h; exact leaves_of_cursorBytes n (by simp [mnemonicOf]) (.inl (cursorPeek_coff _ _ _))
  | csk => cases h; exact leaves_of_cursorMove (by simp [mnemonicOf]) _
  | cac n => cases h; exact leaves_of_cursorMove (by simp [mnemonicOf]) _
  | inew k =>
    rcases exec_inew_cases h with ⟨_, _, -, -, rfl⟩ | rfl
    · exact (setImg_buffersOnly s k _).leaves _
    · exact (raise_buffersOnly s _).leaves _
  | iget k =>
    rcases exec_iget_cases h with ⟨v, rfl⟩ | ⟨e, rfl⟩
    · exact leaves_of_results (by simp [mnemonicOf, resultWriters]) (.inl rfl)
    · exact (raise_buffersOnly s e).leaves _
  | iset k =>
    rcases exec_iset_cases h with ⟨-, -, rfl⟩ | ⟨e, rfl⟩
    · exact (setImg_buffersOnly s k _).leaves _
    · exact (raise_buffersOnly s e).leaves _
  | ihdr =>
    rcases exec_ihdr_cases h with ⟨hdr, c, -, rfl⟩ | ⟨e, c, -, rfl⟩
    · exact ⟨rfl, rfl, rfl, rfl, .inl rfl, .inr (by simp [mnemonicOf, coffWriters]), .inl rfl,
        .inr (by simp [mnemonicOf]), .inl rfl⟩
    · exact leaves_of_coff (scanFailed_buffersOnly s e c) (.inr (by simp [mnemonicOf, coffWriters]))
  | idec k =>
    cases h
    obtain ⟨hs, hframe⟩ := execIdec_frame k s
    exact ⟨hframe.a, hframe.src, hframe.mesh, hframe.host, .inl hframe.r,
      .inr (by simp [mnemonicOf, coffWriters]), .inl hframe.snk, .inr (by simp [mnemonicOf]),
      .inr (.inl (execIdec_dec k s))⟩
  | ienc k =>
    rcases exec_ienc_cases h with rfl | rfl
    · exact ⟨rfl, rfl, rfl, rfl, .inl rfl, .inl rfl, .inr ⟨_, rfl, rfl⟩, .inl rfl, .inl rfl⟩
    · exact (raise_buffersOnly s _).leaves _
  | zclr k =>
    rcases exec_zclr_cases h with rfl | rfl
    · exact ((clearReport_buffersOnly s).setZb _).leaves _
    · exact (raise_buffersOnly s _).leaves _
  | line k =>
    rcases exec_line_cases h with ⟨-, rfl⟩ | rfl
    · exact (setImg_buffersOnly s k _).leaves _
    · exact (raise_buffersOnly s _).leaves _
  | tri k tex zen =>
    rcases exec_tri_cases h with ⟨-, rfl⟩ | ⟨r, rfl⟩
    · exact ((setImg_buffersOnly s k _).setZb _).leaves _
    · exact (raise_buffersOnly s _).leaves _
  | face k tex zen =>
    rcases exec_face_cases h with ⟨-, rfl⟩ | ⟨r, rfl⟩
    · exact ((setImg_buffersOnly s k _).setZb _).leaves _
    · exact (raise_buffersOnly s _).leaves _
  | render k tex =>
    rcases exec_render_cases h with ⟨-, ts, rfl⟩ | ⟨r, rfl⟩
    · exact ((setImg_buffersOnly s k _).setZb _).leaves _
    · exact (raise_buffersOnly s _).leaves _
  | raw n =>
    obtain ⟨d, hd, rfl⟩ := exec_raw_cases h
    exact leaves_of_packet (by simp [mnemonicOf]) hd (packetBody_frame _ _ d s)
  | run n =>
    obtain ⟨d, hd, rfl⟩ := exec_run_cases h
    exact leaves_of_packet (by simp [mnemonicOf]) hd (packetBody_frame _ _ d s)

/-- Settles O53: each conjunct is a field of `Leaves`, which holds of every instruction. -/
theorem onlyNamedCommandsWrite : Obligations.OnlyNamedCommandsWrite := by
  intro i s t h
  obtain ⟨ha, hsrc, hmesh, hhost, hr, hcoff, hsnk, hhs, -⟩ := exec_leaves h
  refine ⟨ha, hsrc, hmesh, hhost, fun hi => hr.resolve_right fun w => hi w.2,
    fun _ he => hr.resolve_right fun w => he w.1, fun hi => hcoff.resolve_right hi, ?_,
    fun hi => hhs.resolve_right hi⟩
  rcases hsnk with hsnk | ⟨f, hsnk, hi⟩
  · exact ⟨[], by simp [hsnk], fun _ => rfl⟩
  · exact ⟨f, hsnk, fun hne => absurd hi hne⟩

/-! ## Steps that begin between commands -/

/-- No command leaves a decode in progress (R41). -/
theorem exec_atBoundary {i : Instr} (hs : s.atBoundary) (h : exec i s = .next t) : t.atBoundary := by
  rcases (exec_leaves h).dec with hdec | hdec | hdec
  · exact hdec.trans hs
  · exact hdec
  · exact absurd hs hdec

theorem runCommand_atBoundary {w : Word} (hs : s.atBoundary) (h : runCommand w s = .next t) :
    t.atBoundary := by
  rcases runCommand_cases w s with ⟨i, -, e⟩ | ⟨r, -, e⟩
  · exact exec_atBoundary hs (e ▸ h)
  · cases e ▸ h
    exact hs

theorem hostEffect_atBoundary {act : HostAction} (hs : s.atBoundary) (h : hostEffect act s = .next t) :
    t.atBoundary := by
  rcases hostEffect_cases h with rfl | ⟨b, rfl⟩ | ⟨i, v, rfl⟩ | rfl | ⟨m, rfl⟩ | rfl
  exacts [hs, hs, hs, hs, hs, rfl]

/-- Settles O10: between commands a step is idle, an effect of the host that starts no decode, or one whole
command. -/
theorem stepKeepsBoundary : Obligations.StepKeepsBoundary := by
  intro s t hs h
  cases hh : s.host with
  | nil =>
    cases step_of_idle hs hh ▸ h
    exact hs
  | cons act rest =>
    rw [step_of_host hs hh] at h
    have hpop : (s.popHost rest).atBoundary := hs
    rcases stepHost_cases act (s.popHost rest) with ⟨w, -, e⟩ | ⟨-, e⟩
    · exact runCommand_atBoundary hpop (e ▸ h)
    · exact hostEffect_atBoundary hpop (e ▸ h)

end Sys2Proof.Machine
end

section
/-! Every step keeps the invariant of the architectural state (10_state.md R24, R30, R32 to R37): each named
update keeps it, so does each procedure of the decode and of the fill, so does every instruction. -/

namespace Sys2Proof.Machine

variable {s t : State}

/-! ## Reset and the named updates -/

theorem Image.invalid_ok : Image.invalid.ok := by decide

theorem Staging.invalid_ok : Staging.invalid.ok := by decide

theorem DepthBuffer.invalid_ok : DepthBuffer.invalid.ok := by decide

/-- Settles O8: SRC is empty, ERR is 0, no slot, HS or depth buffer is valid, no decode is in progress. -/
theorem resetSatisfiesInvariant : Obligations.ResetSatisfiesInvariant := by
  refine ⟨⟨le_refl 0, ?_, Image.invalid_ok, Image.invalid_ok, Staging.invalid_ok, DepthBuffer.invalid_ok, ?_⟩,
    rfl⟩
  · exact List.mem_cons_self
  · rintro d ⟨⟩

theorem Image.ok_of_fresh {hdr : Header} {m : PixMem} (hl : hdr.legal) (hm : m.wf) (hw : m.within hdr.area) :
    Image.ok { valid := true, hdr := hdr, pix := m } :=
  ⟨fun _ => hl, fun h => by simp at h, hm, hw⟩

/-- New contents in canonical form and inside `ZW * ZH` keep the depth buffer's form; a buffer that is not
valid has no element to list. -/
theorem DepthBuffer.ok.withDepth {z : DepthBuffer} (h : z.ok) {m : DepthMem} (hm : m.wf)
    (hw : m.within (z.w.toNat * z.h.toNat)) : DepthBuffer.ok { z with d := m } := by
  refine ⟨fun hv => ?_, hm, hw⟩
  obtain rfl := h.1 hv
  have hempty : m.cells = [] := List.eq_nil_iff_forall_not_mem.2 fun c hc =>
    absurd (hw c hc) (Nat.not_lt_zero _)
  obtain ⟨cells⟩ := m
  subst hempty
  rfl

theorem State.Inv.coff_le (hs : s.Inv) : s.coff ≤ s.src.length := hs.1

theorem State.Inv.scanFailed (hs : s.Inv) (e : Report) {c : Nat} (hc : c ≤ s.src.length) :
    (s.scanFailed e c).Inv := (hs.setCoff hc).raise e

theorem State.Inv.raiseIllegal (hs : s.Inv) (w : Word) (r : IllegalReason) : (s.raiseIllegal w r).Inv :=
  hs.raise _

/-- A command that replaces the pixels of a valid slot. -/
theorem State.Inv.clearReport_setPix (hs : s.Inv) {k : Slot} (hv : (s.img k).valid = true) {m : PixMem}
    (hm : m.wf) (hw : m.within (s.img k).hdr.area) : (s.clearReport.setPix k m).Inv := by
  rw [← State.clearReport_img] at hv hw
  exact hs.clearReport.setPix k hv hm hw

theorem State.Inv.abortDecode (hs : s.Inv) (e : Report) {c : Nat} (hc : c ≤ s.src.length) :
    (s.abortDecode e c).Inv := (hs.scanFailed e hc).setDec fun _ h => by simp at h

theorem State.Inv.commitImage (hs : s.Inv) (k : Slot) {hdr : Header} {pix : List Word} (hl : hdr.legal)
    (hlen : pix.length ≤ hdr.area) : (s.commitImage k hdr pix).Inv :=
  hs.setImg k (Image.ok_of_fresh hl (Memory.ofList_wf pix) fun c hc =>
    (Memory.ofList_within pix c hc).trans_le hlen)

/-! ## Cursor commands -/

theorem cursorBytes_inv (hs : s.Inv) (n : BitVec 4) {x : Scan (List Byte)} (hx : x.coff ≤ s.src.length) :
    (cursorBytes n x s).Inv := by
  rcases cursorBytes_cases n x s with ⟨b, c, rfl, e⟩ | ⟨r, c, rfl, e⟩
  · exact e ▸ ((hs.setCoff hx).setR 0 _).setR 1 _
  · exact e ▸ hs.scanFailed r hx

theorem cursorMove_inv (hs : s.Inv) {x : Scan Unit} (hx : x.coff ≤ s.src.length) :
    (cursorMove x s).Inv := by
  rcases cursorMove_cases x s with ⟨u, c, rfl, e⟩ | ⟨r, c, rfl, e⟩
  · exact e ▸ hs.setCoff hx
  · exact e ▸ hs.scanFailed r hx

/-! ## IDEC and its packets -/

/-- The loop's invariant: a packet that fits and is not the last leaves a decode that lacks pixels. -/
theorem producePixels_inv (hs : s.Inv) {d : Decoding} (hd : d.ok) {ps : List Word} {c : Nat}
    (hc : c ≤ s.src.length) (hfit : d.pix.length + ps.length ≤ d.hdr.area) :
    (s.producePixels d ps c).Inv := by
  obtain ⟨hlegal, htype, -⟩ := hd
  rcases producePixels_cases s d ps c with ⟨hlt, e⟩ | ⟨-, e⟩
  · rw [e]
    refine (hs.setCoff hc).setDec ?_
    rintro _ ⟨rfl⟩
    exact ⟨hlegal, htype, hlt⟩
  · rw [e]
    exact ((hs.setCoff hc).commitImage d.slot hlegal (by simpa using hfit)).setDec fun _ h => by simp at h

theorem packetBody_inv (hs : s.Inv) {d : Decoding} (hd : d.ok) {cnt : Nat}
    {payload : Nat → Scan (List Word)} (hbound : ∀ o, (payload o).Bounded s.src o)
    (hlen : ∀ o ps c, payload o = .ok ps c → ps.length = cnt) : (packetBody cnt payload d s).Inv := by
  have hcoff : (payload s.coff).coff ≤ s.src.length := (hbound s.coff hs.coff_le).2
  rcases packetBody_cases cnt payload d s with ⟨-, e⟩ | ⟨-, r, c, hp, e⟩ | ⟨hfit, ps, c, hp, e⟩
  · exact e ▸ hs.abortDecode _ hs.coff_le
  · rw [hp] at hcoff
    exact e ▸ hs.abortDecode r hcoff
  · rw [hp] at hcoff
    exact e ▸ producePixels_inv hs hd hcoff (hlen _ ps c hp ▸ hfit)

theorem rawBody_inv (hs : s.Inv) {d : Decoding} (hd : d.ok) (n : BitVec 7) : (rawBody n d s).Inv :=
  packetBody_inv hs hd (rawPacket_bounded _ _ _) fun _ _ _ h => (rawPacket_ok h).1

theorem runBody_inv (hs : s.Inv) {d : Decoding} (hd : d.ok) (n : BitVec 7) : (runBody n d s).Inv :=
  packetBody_inv hs hd (runPacket_bounded _ _ _) fun _ _ _ h => by
    obtain ⟨-, rfl, -⟩ := runPacket_ok h
    simp

theorem packetIteration_inv (hs : s.Inv) {d : Decoding} (hd : d.ok) : (packetIteration d s).Inv := by
  unfold packetIteration
  rcases fetchRep_cases s with ⟨-, e⟩ | ⟨hlt, e⟩
  · simp only [e]
    exact hs.abortDecode _ hs.coff_le
  · have hfetch : (s.setCoff (s.coff + 1)).Inv := hs.setCoff hlt
    simp only [e]
    split
    · exact runBody_inv hfetch hd _
    · exact rawBody_inv hfetch hd _

theorem State.Inv.dec_ok (hs : s.Inv) {d : Decoding} (h : s.dec = some d) : d.ok := by
  obtain ⟨_, _, _, _, _, _, hdec⟩ := hs
  exact hdec d h

theorem packetLoop_inv (fuel : Nat) (hs : s.Inv) : (packetLoop fuel s).Inv := by
  induction fuel generalizing s with
  | zero => exact hs
  | succ fuel ih =>
    cases hdec : s.dec with
    | none => rwa [packetLoop_of_dec_none hdec]
    | some d =>
      rw [packetLoop_succ_of_dec hdec]
      exact ih (packetIteration_inv hs (hs.dec_ok hdec))

theorem idecFinish_inv (hs : s.Inv) : (idecFinish s).Inv := by
  unfold idecFinish
  split
  · exact hs
  · exact packetLoop_inv _ hs

theorem decodeRaw_bounded (src : List Byte) (hdr : Header) (o : Nat) : (decodeRaw src hdr o).Bounded src o :=
  Scan.bounded_bind (cursorRead_bounded _ _ _) fun _ _ _ => Scan.bounded_ok

theorem length_of_decodeRaw {src : List Byte} {hdr : Header} {o c : Nat} {pix : List Word}
    (h : decodeRaw src hdr o = .ok pix c) : pix.length = hdr.area := by
  obtain ⟨b, c', -, hpix⟩ := Scan.bind_eq_ok.1 h
  cases hpix
  exact length_chunkPixels _ _ _

theorem idecBegin_inv (k : Slot) (hs : s.Inv) : (idecBegin k s).Inv := by
  have hclear : (s.clearReport.setDec none).Inv := hs.clearReport.setDec fun _ h => by simp at h
  have hheader : (parseHeader s.src s.coff).coff ≤ s.src.length := (parseHeader_bounded _ _ hs.coff_le).2
  rcases idecBegin_cases k s with ⟨e, c, hp, eq⟩ | ⟨hdr, c, hp, hrest⟩
  · rw [hp] at hheader
    exact eq ▸ hclear.scanFailed e hheader
  rw [hp] at hheader
  obtain ⟨-, -, hlegal, -⟩ := parseHeader_ok hp
  have hparsed := (hclear.setCoff hheader).setHs hlegal
  have hstream : (decodeRaw s.src hdr c).coff ≤ s.src.length := (decodeRaw_bounded _ _ _ hheader).2
  rcases hrest with ⟨-, e, c', hd, eq⟩ | ⟨-, pix, c', hd, eq⟩ | ⟨htype, eq⟩
  · rw [hd] at hstream
    exact eq ▸ hparsed.scanFailed e hstream
  · rw [hd] at hstream
    exact eq ▸ (hparsed.setCoff hstream).commitImage k hlegal (length_of_decodeRaw hd).le
  · rw [eq]
    refine hparsed.setDec fun d hd => ?_
    obtain ⟨-, hok⟩ := idecBegin_dec (k := k) (s := s) d (by rw [eq]; exact hd)
    exact hok

/-! ## The fill of a triangle -/

/-- The memories a fill writes: canonical, inside a target of `len` and a depth buffer of `zlen` elements. -/
structure Canvas.Ok (c : Canvas) (len zlen : Nat) : Prop where
  pix_wf : c.pix.wf
  pix_within : c.pix.within len
  depth_wf : c.depth.wf
  depth_within : c.depth.within zlen

/-- A pixel of the target is written inside both memories; without the depth test the depth buffer may
have any dimensions. -/
theorem fillPixel_ok {t : Target} {f : Fill} {m : Inverse} {c : Canvas} {p : Nat × Nat} {zlen : Nat}
    (hc : c.Ok (t.w * t.h) zlen) (hz : f.zen = true → zlen = t.w * t.h) (hx : p.1 < t.w) (hy : p.2 < t.h) :
    (fillPixel t f m c p).Ok (t.w * t.h) zlen := by
  have hlt := linearIndex_lt hx hy
  rcases fillPixel_cases t f m c p with ⟨-, e⟩ | ⟨col, -, e⟩
  · rwa [e]
  · rw [e]
    cases hzen : f.zen with
    | false => exact ⟨Memory.write_wf hc.pix_wf _ _, Memory.write_within hc.pix_within hlt _, hc.depth_wf,
        hc.depth_within⟩
    | true => exact ⟨Memory.write_wf hc.pix_wf _ _, Memory.write_within hc.pix_within hlt _,
        Memory.write_wf hc.depth_wf _ _, Memory.write_within hc.depth_within (hz hzen ▸ hlt) _⟩

theorem fillTriangle_ok {t : Target} {f : Fill} {c : Canvas} {zlen : Nat} (hw : 0 < t.w) (hh : 0 < t.h)
    (hc : c.Ok (t.w * t.h) zlen) (hz : f.zen = true → zlen = t.w * t.h) :
    (fillTriangle t f c).Ok (t.w * t.h) zlen := by
  unfold fillTriangle
  split
  · obtain ⟨hwf, hwithin⟩ := outline_wf f.tri hc.pix_wf hc.pix_within
    exact ⟨hwf, hwithin, hc.depth_wf, hc.depth_within⟩
  · refine List.foldlRecOn (motive := fun c : Canvas => c.Ok (t.w * t.h) zlen) _ _ hc fun c hc p hp => ?_
    obtain ⟨-, hx, -, hy⟩ := mem_boxPixels.1 hp
    obtain ⟨-, hxmax, -, hymax⟩ := boundingBox_le hw hh f.tri
    exact fillPixel_ok hc hz (by omega) (by omega)

theorem shadeAndFill_ok {t : Target} {v : Triangle} {tex : Option Texture} {zen : Bool} {c : Canvas}
    {zlen : Nat} (hw : 0 < t.w) (hh : 0 < t.h) (hc : c.Ok (t.w * t.h) zlen)
    (hz : zen = true → zlen = t.w * t.h) : (shadeAndFill t v tex zen c).Ok (t.w * t.h) zlen := by
  unfold shadeAndFill
  split
  · exact hc
  · exact fillTriangle_ok hw hh hc hz

/-! ## Raster commands -/

theorem State.Inv.legal (hs : s.Inv) {k : Slot} (hv : (s.img k).valid = true) : (s.img k).hdr.legal :=
  (hs.img k).1 hv

/-- A valid slot is a target with at least one pixel. -/
theorem State.Inv.target_pos (hs : s.Inv) {k : Slot} (hv : (s.img k).valid = true) :
    0 < (s.target k).w ∧ 0 < (s.target k).h := by
  obtain ⟨-, -, -, -, hw, hh, -⟩ := hs.legal hv
  exact ⟨Nat.pos_of_ne_zero (BitVec.toNat_ne.1 hw), Nat.pos_of_ne_zero (BitVec.toNat_ne.1 hh)⟩

theorem State.Inv.zb_ok (hs : s.Inv) : s.zb.ok := by
  obtain ⟨_, _, _, _, _, hz, _⟩ := hs
  exact hz

/-- The memories TRI and FACE start from. -/
theorem State.Inv.canvas_ok (hs : s.Inv) (k : Slot) :
    (s.canvas k).Ok (s.img k).hdr.area (s.zb.w.toNat * s.zb.h.toNat) := by
  obtain ⟨-, -, hwf, hwithin⟩ := hs.img k
  obtain ⟨-, hzwf, hzwithin⟩ := hs.zb_ok
  exact ⟨hwf, hwithin, hzwf, hzwithin⟩

theorem State.Inv.setCanvas (hs : s.Inv) {k : Slot} (hv : (s.img k).valid = true) {c : Canvas}
    (hc : c.Ok (s.img k).hdr.area (s.zb.w.toNat * s.zb.h.toNat)) :
    (s.clearReport.setCanvas k c).Inv :=
  (hs.clearReport_setPix hv hc.pix_wf hc.pix_within).setZb (hs.zb_ok.withDepth hc.depth_wf hc.depth_within)

/-- Check (3) of R241 gives the depth buffer the target's length. -/
theorem depthFits_area {k : Slot} (h : s.depthFits k = true) :
    s.zb.w.toNat * s.zb.h.toNat = (s.img k).hdr.area := by
  simp only [State.depthFits, Bool.and_eq_true, beq_iff_eq] at h
  obtain ⟨⟨-, hw⟩, hh⟩ := h
  rw [hw, hh, Header.area]

theorem exec_tri_inv {k : Slot} {tex : Option Slot} {zen : Bool} (hs : s.Inv)
    (h : exec (.tri k tex zen) s = .next t) : t.Inv := by
  rcases exec_tri_cases h with ⟨hcheck, rfl⟩ | ⟨r, rfl⟩
  · obtain ⟨hv, -, hz, -⟩ := fillCheck_eq_none.1 hcheck
    obtain ⟨hw, hh⟩ := hs.target_pos hv
    exact hs.setCanvas hv (fillTriangle_ok hw hh (hs.canvas_ok k) fun e => depthFits_area (hz e))
  · exact hs.clearReport.raiseIllegal _ r

theorem exec_face_inv {k : Slot} {tex : Option Slot} {zen : Bool} (hs : s.Inv)
    (h : exec (.face k tex zen) s = .next t) : t.Inv := by
  rcases exec_face_cases h with ⟨hcheck, rfl⟩ | ⟨r, rfl⟩
  · obtain ⟨hv, -, hz, -⟩ := fillCheck_eq_none.1 hcheck
    obtain ⟨hw, hh⟩ := hs.target_pos hv
    exact hs.setCanvas hv (shadeAndFill_ok hw hh (hs.canvas_ok k) fun e => depthFits_area (hz e))
  · exact hs.clearReport.raiseIllegal _ r

/-- RENDER's pass over the faces works in a depth buffer of the target's length. -/
theorem renderFaces_ok (hs : s.Inv) {k : Slot} (hv : (s.img k).valid = true) (tex : Option Slot)
    (ts : List MeshTriangle) :
    (renderFaces s k tex ts { pix := (s.img k).pix, depth := Memory.empty }).Ok (s.img k).hdr.area
      (s.img k).hdr.area := by
  obtain ⟨hw, hh⟩ := hs.target_pos hv
  obtain ⟨-, -, hwf, hwithin⟩ := hs.img k
  have hstart : Canvas.Ok { pix := (s.img k).pix, depth := Memory.empty } (s.img k).hdr.area
      (s.img k).hdr.area := ⟨hwf, hwithin, Memory.empty_wf, fun c hc => by simp [Memory.empty] at hc⟩
  exact List.foldlRecOn (motive := fun c : Canvas => c.Ok (s.img k).hdr.area (s.img k).hdr.area) _ _ hstart
    fun c hc m _ => shadeAndFill_ok hw hh hc fun _ => rfl

theorem exec_render_inv {k : Slot} {tex : Option Slot} (hs : s.Inv)
    (h : exec (.render k tex) s = .next t) : t.Inv := by
  rcases exec_render_cases h with ⟨hcheck, ts, rfl⟩ | ⟨r, rfl⟩
  · obtain ⟨hv, -⟩ := targetCheck_eq_none.1 hcheck
    have hc := renderFaces_ok hs hv tex ts
    exact (hs.clearReport_setPix hv hc.pix_wf hc.pix_within).setZb DepthBuffer.invalid_ok
  · exact hs.clearReport.raiseIllegal _ r

theorem DepthBuffer.fresh_ok (w h : Half) : (DepthBuffer.fresh w h).ok :=
  ⟨fun hv => by simp [DepthBuffer.fresh] at hv, Memory.empty_wf, fun c hc => by
    simp [DepthBuffer.fresh, Memory.empty] at hc⟩

theorem exec_line_inv {k : Slot} (hs : s.Inv) (h : exec (.line k) s = .next t) : t.Inv := by
  rcases exec_line_cases h with ⟨hv, rfl⟩ | rfl
  · obtain ⟨-, -, hwf, hwithin⟩ := hs.img k
    obtain ⟨hlwf, hlwithin⟩ := drawLine_wf (t := s.target k) (c := s.argColor 4) (s.argCoord 0)
      (s.argCoord 1) (s.argCoord 2) (s.argCoord 3) hwf hwithin
    exact hs.clearReport_setPix hv hlwf hlwithin
  · exact hs.clearReport.raiseIllegal _ _

/-! ## Image commands -/

/-- The header INEW writes is legal for operands in 1 to 65535 (R191). -/
theorem newHeader_legal {w h : Nat} (hw : dimensionOk w = true) (hh : dimensionOk h = true) :
    (newHeader (BitVec.ofNat 16 w) (BitVec.ofNat 16 h)).legal := by
  have hne : ∀ n, dimensionOk n = true → BitVec.ofNat 16 n ≠ 0 := fun n hn e => by
    obtain ⟨h1, h2⟩ := dimensionOk_iff.1 hn
    have := congrArg BitVec.toNat e
    simp at this
    omega
  exact ⟨rfl, rfl, .inl rfl, rfl, hne w hw, hne h hh, .inr rfl⟩

theorem exec_inew_inv {k : Slot} (hs : s.Inv) (h : exec (.inew k) s = .next t) : t.Inv := by
  rcases exec_inew_cases h with ⟨w, h, hw, hh, rfl⟩ | rfl
  · exact hs.clearReport.setImg k (Image.ok_of_fresh (newHeader_legal hw hh) Memory.empty_wf
      fun c hc => by simp [Memory.empty] at hc)
  · exact hs.clearReport.raiseIllegal _ _

theorem exec_iset_inv {k : Slot} (hs : s.Inv) (h : exec (.iset k) s = .next t) : t.Inv := by
  rcases exec_iset_cases h with ⟨hv, hin, rfl⟩ | ⟨e, rfl⟩
  · obtain ⟨-, -, hwf, hwithin⟩ := hs.img k
    simp only [State.inImage, Bool.and_eq_true, decide_eq_true_eq] at hin
    obtain ⟨hx, hy⟩ := hin
    exact hs.clearReport_setPix hv (Memory.write_wf hwf _ _)
      (Memory.write_within hwithin (linearIndex_lt hx hy) _)
  · exact hs.clearReport.raise e

theorem exec_ihdr_inv (hs : s.Inv) (h : exec .ihdr s = .next t) : t.Inv := by
  have hheader : (parseHeader s.src s.coff).coff ≤ s.src.length := (parseHeader_bounded _ _ hs.coff_le).2
  rcases exec_ihdr_cases h with ⟨hdr, c, hp, rfl⟩ | ⟨e, c, hp, rfl⟩
  · rw [hp] at hheader
    obtain ⟨-, -, hlegal, -⟩ := parseHeader_ok hp
    exact (hs.clearReport.setCoff hheader).setHs hlegal
  · rw [hp] at hheader
    exact hs.clearReport.scanFailed e hheader

/-! ## All instructions, all steps -/

/-- Every instruction keeps the invariant, between commands and in a decode. -/
theorem exec_inv {i : Instr} (hs : s.Inv) (h : exec i s = .next t) : t.Inv := by
  have hclear := hs.clearReport
  cases i with
  | nop => cases h; exact hclear
  | pack => cases h; exact hclear.setR 0 _
  | unpack => cases h; exact (((hclear.setR 0 _).setR 1 _).setR 2 _).setR 3 _
  | from24 => cases h; exact hclear.setR 0 _
  | crd n => cases h; exact cursorBytes_inv hclear n (cursorRead_bounded _ _ _ hs.coff_le).2
  | cpk n => cases h; exact cursorBytes_inv hclear n ((cursorPeek_coff _ _ _).trans_le hs.coff_le)
  | csk => cases h; exact cursorMove_inv hclear (cursorSeek_bounded_coff hs.coff_le)
  | cac n => cases h; exact cursorMove_inv hclear (cursorAccept_bounded _ _ _ hs.coff_le).2
  | inew k => exact exec_inew_inv hs h
  | iget k =>
    rcases exec_iget_cases h with ⟨v, rfl⟩ | ⟨e, rfl⟩
    · exact hclear.setR 0 v
    · exact hclear.raise e
  | iset k => exact exec_iset_inv hs h
  | ihdr => exact exec_ihdr_inv hs h
  | idec k => cases h; exact idecFinish_inv (idecBegin_inv k hs)
  | ienc k =>
    rcases exec_ienc_cases h with rfl | rfl
    · exact hclear
    · exact hclear.raiseIllegal _ _
  | zclr k =>
    rcases exec_zclr_cases h with rfl | rfl
    · exact hclear.setZb (DepthBuffer.fresh_ok _ _)
    · exact hclear.raiseIllegal _ _
  | line k => exact exec_line_inv hs h
  | tri k tex zen => exact exec_tri_inv hs h
  | face k tex zen => exact exec_face_inv hs h
  | render k tex => exact exec_render_inv hs h
  | raw n =>
    obtain ⟨d, hd, rfl⟩ := exec_raw_cases h
    exact rawBody_inv hs (hs.dec_ok hd) n
  | run n =>
    obtain ⟨d, hd, rfl⟩ := exec_run_cases h
    exact runBody_inv hs (hs.dec_ok hd) n

theorem runCommand_inv {w : Word} (hs : s.Inv) (h : runCommand w s = .next t) : t.Inv := by
  rcases runCommand_cases w s with ⟨i, -, e⟩ | ⟨r, -, e⟩
  · exact exec_inv hs (e ▸ h)
  · cases e ▸ h
    exact hs.clearReport.raiseIllegal w _

theorem hostEffect_inv {act : HostAction} (hs : s.Inv) (h : hostEffect act s = .next t) : t.Inv := by
  obtain ⟨hcoff, hrest⟩ := hs
  rcases hostEffect_cases h with rfl | ⟨b, rfl⟩ | ⟨i, v, rfl⟩ | rfl | ⟨m, rfl⟩ | rfl
  · exact ⟨hcoff, hrest⟩
  · exact ⟨Nat.zero_le _, hrest⟩
  · exact ⟨hcoff, hrest⟩
  · exact ⟨hcoff, hrest⟩
  · exact ⟨hcoff, hrest⟩
  · exact resetSatisfiesInvariant.1

/-- Settles O9: a step is an iteration of the packet loop, idle, an effect of the host or a command, and each
keeps the invariant. -/
theorem stepKeepsInvariant : Obligations.StepKeepsInvariant := by
  intro s t hs h
  cases hdec : s.dec with
  | some d =>
    cases step_of_dec hdec ▸ h
    exact packetIteration_inv hs (hs.dec_ok hdec)
  | none =>
    cases hh : s.host with
    | nil =>
      cases step_of_idle hdec hh ▸ h
      exact hs
    | cons act rest =>
      rw [step_of_host hdec hh] at h
      have hpop : (s.popHost rest).Inv := hs
      rcases stepHost_cases act (s.popHost rest) with ⟨w, -, e⟩ | ⟨-, e⟩
      · exact runCommand_inv hpop (e ▸ h)
      · exact hostEffect_inv hpop (e ▸ h)

end Sys2Proof.Machine
end

section
/-! The host's view of the machine: what it reads at each register number (10_state.md R28) and after reset
(R40), and what writing a command word does (R29). -/

namespace Sys2Proof.Machine

/-- Settles O6: the write leaves the queue, and the word decodes to `i`. -/
theorem stepRunsDecodedCommand : Obligations.StepRunsDecodedCommand := by
  intro s w i rest hdec hhost hw
  have hrun : runCommand w (s.popHost rest) = exec i (s.popHost rest) := by
    unfold runCommand
    rw [hw]
  rw [step_of_host hdec hhost]
  exact hrun

/-- The host reads operand register `i` at number 0x50 + i. -/
theorem readReg_a (s : State) (i : Fin 16) : s.readReg (0x50 + i) = some (s.a.get i) := by
  fin_cases i <;> rfl

/-- The host reads result register `i` at number 0x60 + i. -/
theorem readReg_r (s : State) (i : Fin 4) : s.readReg (0x60 + i) = some (s.r.get i) := by
  fin_cases i <;> rfl

/-- Settles O60: the fixed numbers and the three header files, field by field; A and R by their index. -/
theorem registerMap : Obligations.RegisterMap := by
  intro s
  refine ⟨rfl, fun p hp => ?_, readReg_a s, readReg_r s⟩
  simp only [List.mem_cons, List.not_mem_nil, or_false] at hp
  rcases hp with rfl | rfl | rfl
  · rfl
  · rfl
  · rfl

/-- Settles O58: what the host can read is evaluated at each number of the list. -/
theorem resetValues : Obligations.ResetValues := by
  refine ⟨by decide, rfl, rfl, fun k => ?_, rfl, rfl⟩
  rw [State.reset_img]
  exact ⟨rfl, rfl⟩

end Sys2Proof.Machine
end

section
/-! The encoding of 30_encoding.md R100 to R104. A command word is its fields, and every operation code
uses them in one of five ways; the decoder, the encoder, the conditions of R104 and the rows of R110 are
each tied to those five once, and the statements about all words follow. -/

namespace Sys2Proof.Machine

/-! ## The fields of a command word (R100) -/

/-- The fields of a word whose width is the sum of the fields' widths, the form in which the lemmas about
`++` apply to `cmdWordOf`. -/
theorem cmdFields_of_sum_width (w : BitVec (12 + 4 + 4 + 1 + 1 + 1 + 1 + 8)) :
    cmdFields w =
      { op := w.extractLsb' 0 8, s := w.getLsbD 8, t := w.getLsbD 9, tex := w.getLsbD 10,
        zen := w.getLsbD 11, mid := w.extractLsb' 12 4, n := w.extractLsb' 16 4,
        hi := w.extractLsb' 20 12 } := rfl

@[simp] theorem cmdFields_cmdWordOf (op : Byte) (s t tex zen : Bool) (n : BitVec 4) :
    cmdFields (cmdWordOf op s t tex zen n) = ⟨op, s, t, tex, zen, 0#4, n, 0#12⟩ := by
  unfold cmdWordOf
  rw [cmdFields_of_sum_width]
  simp only [BitVec.getLsbD_append, BitVec.extractLsb'_append_eq_ite]
  simp

/-- The fields cover all bits of a word. -/
theorem getLsbD_eq_field (w : Word) {i : Nat} (hi : i < 32) :
    w.getLsbD i =
      if i < 8 then (cmdFields w).op.getLsbD i else if i = 8 then (cmdFields w).s
      else if i = 9 then (cmdFields w).t else if i = 10 then (cmdFields w).tex
      else if i = 11 then (cmdFields w).zen else if i < 16 then (cmdFields w).mid.getLsbD (i - 12)
      else if i < 20 then (cmdFields w).n.getLsbD (i - 16) else (cmdFields w).hi.getLsbD (i - 20) := by
  simp only [cmdFields, BitVec.getLsbD_extractLsb']
  grind

theorem cmdFields_injective : Function.Injective cmdFields := fun v w h =>
  BitVec.eq_of_getLsbD_eq fun i hi => by rw [getLsbD_eq_field v hi, getLsbD_eq_field w hi, h]

theorem cmdFields_and (v w : Word) :
    cmdFields (v &&& w) =
      { op := (cmdFields v).op &&& (cmdFields w).op
        s := (cmdFields v).s && (cmdFields w).s
        t := (cmdFields v).t && (cmdFields w).t
        tex := (cmdFields v).tex && (cmdFields w).tex
        zen := (cmdFields v).zen && (cmdFields w).zen
        mid := (cmdFields v).mid &&& (cmdFields w).mid
        n := (cmdFields v).n &&& (cmdFields w).n
        hi := (cmdFields v).hi &&& (cmdFields w).hi } := by
  simp [cmdFields, BitVec.extractLsb'_and]

@[simp] theorem slotOfBit_bit (s : Slot) : slotOfBit s.bit = s := by cases s <;> rfl

@[simp] theorem bit_slotOfBit (b : Bool) : (slotOfBit b).bit = b := by cases b <;> rfl

theorem slotOfBit_injective : Function.Injective slotOfBit := Function.LeftInverse.injective bit_slotOfBit

theorem bit_injective : Function.Injective Slot.bit := Function.LeftInverse.injective slotOfBit_bit

/-- The texture slot that the fields `tex` and `t` name. -/
def texField (f : CmdFields) : Option Slot := if f.tex then some (slotOfBit f.t) else none

/-! ## The five ways to use the fields (R101) -/

/-- How an operation code uses the fields of its word, with the instruction it makes of them. -/
inductive Operands where
  | plain (i : Instr)
  | count (mk : BitVec 4 → Instr)
  | slot (mk : Slot → Instr)
  | fill (mk : Slot → Option Slot → Bool → Instr)
  | render (mk : Slot → Option Slot → Instr)

/-- The operands of an operation code; none for a number that is not one. -/
def operandsOf : Nat → Option Operands
  | 0x00 => some (.plain .nop)
  | 0x01 => some (.plain .pack)
  | 0x02 => some (.plain .unpack)
  | 0x03 => some (.plain .from24)
  | 0x10 => some (.count .crd)
  | 0x11 => some (.count .cpk)
  | 0x12 => some (.plain .csk)
  | 0x13 => some (.count .cac)
  | 0x20 => some (.slot .inew)
  | 0x21 => some (.slot .iget)
  | 0x22 => some (.slot .iset)
  | 0x23 => some (.plain .ihdr)
  | 0x24 => some (.slot .idec)
  | 0x25 => some (.slot .ienc)
  | 0x30 => some (.slot .zclr)
  | 0x31 => some (.slot .line)
  | 0x32 => some (.fill .tri)
  | 0x33 => some (.fill .face)
  | 0x34 => some (.render .render)
  | _ => none

namespace Operands

/-- The decoder of a word of these operands. -/
def decode : Operands → CmdFields → Except Reject Instr
  | .plain i, f => decodePlain f i
  | .count mk, f => decodeCount f mk
  | .slot mk, f => decodeSlot f mk
  | .fill mk, f => decodeFill f mk
  | .render mk, f => decodeRender f mk

/-- The instruction made of the fields. -/
def build : Operands → CmdFields → Instr
  | .plain i, _ => i
  | .count mk, f => mk f.n
  | .slot mk, f => mk (slotOfBit f.s)
  | .fill mk, f => mk (slotOfBit f.s) (texField f) f.zen
  | .render mk, f => mk (slotOfBit f.s) (texField f)

/-- Column "uses" of R101. -/
def uses : Operands → FieldUse
  | .plain _ => ⟨false, false, false, false, false⟩
  | .count _ => ⟨false, false, false, false, true⟩
  | .slot _ => ⟨true, false, false, false, false⟩
  | .fill _ => ⟨true, true, true, true, false⟩
  | .render _ => ⟨true, true, true, false, false⟩

end Operands

/-- No condition of R104 but the one on the operation code meets the fields of a word that may use `u`. -/
def FieldUse.Allows (u : FieldUse) (f : CmdFields) : Prop :=
  f.hi = 0#12 ∧ f.mid = 0#4 ∧
    (f.s = true → u.s = true) ∧ (f.t = true → u.t = true) ∧
    (f.tex = true → u.tex = true) ∧ (f.zen = true → u.zen = true) ∧
    (u.n = false → f.n = 0#4) ∧ (u.n = true → f.n ≤ 8#4) ∧
    (u.tex = true → if f.tex then f.t ≠ f.s else f.t = false)

/-! ## The decoder -/

theorem except_map_eq_ok {ε α β : Type} {g : α → β} {x : Except ε α} {b : β} :
    x.map g = .ok b ↔ ∃ a, x = .ok a ∧ g a = b := by
  cases x <;> simp [Except.map]

theorem decodeTex_eq_ok {f : CmdFields} {tex : Option Slot} :
    decodeTex f = .ok tex ↔ (if f.tex then f.t ≠ f.s else f.t = false) ∧ texField f = tex := by
  unfold decodeTex texField
  cases f.tex with
  | true => by_cases h : f.t = f.s <;> simp [h]
  | false => cases f.t <;> simp

/-- With the reserved bits 0, the decoder of the operands accepts the fields R104 allows and makes the
instruction of them. -/
theorem Operands.decode_eq_ok {o : Operands} {f : CmdFields} {i : Instr} (hhi : f.hi = 0#12)
    (hmid : f.mid = 0#4) : o.decode f = .ok i ↔ o.uses.Allows f ∧ o.build f = i := by
  cases o with
  | plain j =>
    simp [decode, decodePlain, build, uses, FieldUse.Allows, hhi, hmid, and_assoc, ite_eq_iff]
  | count mk =>
    simp [decode, decodeCount, build, uses, FieldUse.Allows, hhi, hmid, and_assoc, ite_eq_iff]
  | slot mk =>
    simp [decode, decodeSlot, build, uses, FieldUse.Allows, hhi, hmid, and_assoc, ite_eq_iff]
  | fill mk =>
    simp [decode, decodeFill, build, uses, FieldUse.Allows, hhi, hmid, and_assoc, ite_eq_iff,
      except_map_eq_ok, decodeTex_eq_ok]
  | render mk =>
    simp [decode, decodeRender, build, uses, FieldUse.Allows, hhi, hmid, and_assoc, ite_eq_iff,
      except_map_eq_ok, decodeTex_eq_ok]

/-- The command decoder, by the operands of the word's operation code. -/
theorem decodeCmd_eq (w : Word) :
    decodeCmd w =
      if (cmdFields w).hi != 0#12 || (cmdFields w).mid != 0#4 then .error .reservedBits
      else ((operandsOf (cmdFields w).op.toNat).map (·.decode (cmdFields w))).getD
        (.error .unknownOp) := by
  unfold decodeCmd operandsOf
  dsimp only
  congr 1
  generalize (cmdFields w).op.toNat = n
  split
  case h_20 => simp_all
  all_goals rfl

theorem decodeCmd_eq_ok {w : Word} {i : Instr} :
    decodeCmd w = .ok i ↔
      ∃ o, operandsOf (cmdFields w).op.toNat = some o ∧ o.uses.Allows (cmdFields w) ∧
        o.build (cmdFields w) = i := by
  rw [decodeCmd_eq]
  split
  · next h =>
    refine iff_of_false (by simp) ?_
    rintro ⟨o, -, ⟨hhi, hmid, -⟩, -⟩
    simp [hhi, hmid] at h
  · next h =>
    obtain ⟨hhi, hmid⟩ : (cmdFields w).hi = 0#12 ∧ (cmdFields w).mid = 0#4 := by simpa using h
    cases operandsOf (cmdFields w).op.toNat with
    | none => simp
    | some o => simp [Operands.decode_eq_ok hhi hmid]

/-- A word made of fields that its operands allow decodes to the instruction made of them. -/
theorem decodeCmd_cmdWordOf {op : Byte} {s t tex zen : Bool} {n : BitVec 4} {o : Operands}
    (hop : operandsOf op.toNat = some o) (hallow : o.uses.Allows ⟨op, s, t, tex, zen, 0#4, n, 0#12⟩) :
    decodeCmd (cmdWordOf op s t tex zen n) = .ok (o.build ⟨op, s, t, tex, zen, 0#4, n, 0#12⟩) :=
  decodeCmd_eq_ok.2 ⟨o, by simpa using hop, by simpa using hallow, by simp⟩

/-! ## The encoder -/

/-- The words the encoder writes for the instructions of these operands, and when they are well-formed. -/
def Operands.Encodes (op : Byte) : Operands → Prop
  | .plain i => i.wf = true ∧ encode i = .cmd32 (cmdWordOf op false false false false 0#4)
  | .count mk => ∀ n, (mk n).wf = decide (n ≤ 8#4) ∧
      encode (mk n) = .cmd32 (cmdWordOf op false false false false n)
  | .slot mk => ∀ s, (mk s).wf = true ∧
      encode (mk s) = .cmd32 (cmdWordOf op s.bit false false false 0#4)
  | .fill mk => ∀ s tex zen, (mk s tex zen).wf = texOk s tex ∧
      encode (mk s tex zen) = .cmd32 (encodeFill op s tex zen)
  | .render mk => ∀ s tex, (mk s tex).wf = texOk s tex ∧
      encode (mk s tex) = .cmd32 (encodeFill op s tex false)

theorem operandsOf_encodes {op : Byte} {o : Operands} (hop : operandsOf op.toNat = some o) :
    o.Encodes op := by
  generalize hn : op.toNat = n at hop
  obtain rfl : op = BitVec.ofNat 8 n := by simp [← hn]
  clear hn
  unfold operandsOf at hop
  split at hop
  all_goals cases hop
  all_goals simp [Operands.Encodes, Instr.wf, encode]

theorem texOk_texField {f : CmdFields} (h : if f.tex then f.t ≠ f.s else f.t = false) :
    texOk (slotOfBit f.s) (texField f) = true := by
  unfold texField
  cases htex : f.tex with
  | true =>
    have hne : f.t ≠ f.s := by simpa [htex] using h
    simpa [texOk] using slotOfBit_injective.ne hne
  | false => simp [texOk]

theorem encodeFill_texField {op : Byte} {f : CmdFields} {zen : Bool}
    (h : if f.tex then f.t ≠ f.s else f.t = false) :
    encodeFill op (slotOfBit f.s) (texField f) zen = cmdWordOf op f.s f.t f.tex zen 0#4 := by
  unfold texField
  cases htex : f.tex with
  | true => simp [encodeFill]
  | false =>
    have ht : f.t = false := by simpa [htex] using h
    simp [encodeFill, ht]

/-- The encoder writes the fields again that the instruction was made of. -/
theorem Operands.Encodes.encode_build {op : Byte} {o : Operands} {f : CmdFields} (h : o.Encodes op)
    (hallow : o.uses.Allows f) :
    (o.build f).wf = true ∧ encode (o.build f) = .cmd32 (cmdWordOf op f.s f.t f.tex f.zen f.n) := by
  obtain ⟨-, -, hs, ht, htex, hzen, hn, hcount, hpair⟩ := hallow
  cases o with
  | plain i => simp_all [Encodes, uses, build]
  | count mk => simp_all [Encodes, uses, build]
  | slot mk => simp_all [Encodes, uses, build]
  | fill mk =>
    obtain ⟨hwf, henc⟩ := h (slotOfBit f.s) (texField f) f.zen
    rw [encodeFill_texField (hpair rfl), ← hn rfl] at henc
    exact ⟨hwf.trans (texOk_texField (hpair rfl)), henc⟩
  | render mk =>
    obtain ⟨hwf, henc⟩ := h (slotOfBit f.s) (texField f)
    have hzen : f.zen = false := by simpa [uses] using hzen
    rw [encodeFill_texField (hpair rfl), ← hn rfl, ← hzen] at henc
    exact ⟨hwf.trans (texOk_texField (hpair rfl)), henc⟩

theorem cmdWordOf_cmdFields {w : Word} (hhi : (cmdFields w).hi = 0#12) (hmid : (cmdFields w).mid = 0#4) :
    cmdWordOf (cmdFields w).op (cmdFields w).s (cmdFields w).t (cmdFields w).tex (cmdFields w).zen
      (cmdFields w).n = w :=
  cmdFields_injective (by rw [cmdFields_cmdWordOf, ← hhi, ← hmid])

/-- What a command word decodes to is well-formed and encodes to that word. -/
theorem encode_of_decodeCmd {w : Word} {i : Instr} (h : decodeCmd w = .ok i) :
    i.wf = true ∧ encode i = .cmd32 w := by
  obtain ⟨o, hop, hallow, rfl⟩ := decodeCmd_eq_ok.1 h
  obtain ⟨hwf, henc⟩ := (operandsOf_encodes hop).encode_build hallow
  obtain ⟨hhi, hmid, -⟩ := hallow
  exact ⟨hwf, henc.trans (congrArg Code.cmd32 (cmdWordOf_cmdFields hhi hmid))⟩

/-! ### Reading back an encoded command -/

section
variable {op : Byte}

theorem decodeCmd_count {mk : BitVec 4 → Instr} (hop : operandsOf op.toNat = some (.count mk))
    {n : BitVec 4} (hn : n ≤ 8#4) : decodeCmd (cmdWordOf op false false false false n) = .ok (mk n) :=
  decodeCmd_cmdWordOf hop (by simpa [FieldUse.Allows, Operands.uses] using hn)

theorem decodeCmd_slot {mk : Slot → Instr} (hop : operandsOf op.toNat = some (.slot mk)) (s : Slot) :
    decodeCmd (cmdWordOf op s.bit false false false 0#4) = .ok (mk s) := by
  rw [decodeCmd_cmdWordOf hop (by simp [FieldUse.Allows, Operands.uses])]
  simp [Operands.build]

/-- The word of a command with a texture operand: its fields are allowed where its texture slot is, and
name that slot. -/
theorem encodeFill_fields {s : Slot} {tex : Option Slot} (zen : Bool) (h : texOk s tex = true) :
    ∃ t b, encodeFill op s tex zen = cmdWordOf op s.bit t b zen 0#4 ∧
      (if b then t ≠ s.bit else t = false) ∧
      texField ⟨op, s.bit, t, b, zen, 0#4, 0#4, 0#12⟩ = tex := by
  cases tex with
  | none => exact ⟨false, false, rfl, rfl, rfl⟩
  | some t =>
    have hne : t ≠ s := by simpa [texOk] using h
    exact ⟨t.bit, true, rfl, by simpa using bit_injective.ne hne, by simp [texField]⟩

theorem decodeCmd_fill {mk : Slot → Option Slot → Bool → Instr}
    (hop : operandsOf op.toNat = some (.fill mk)) {s : Slot} {tex : Option Slot} {zen : Bool}
    (h : texOk s tex = true) : decodeCmd (encodeFill op s tex zen) = .ok (mk s tex zen) := by
  obtain ⟨t, b, hw, hpair, htex⟩ := encodeFill_fields (op := op) zen h
  rw [hw, decodeCmd_cmdWordOf hop (by simpa [FieldUse.Allows, Operands.uses] using hpair)]
  simp [Operands.build, htex]

theorem decodeCmd_render {mk : Slot → Option Slot → Instr}
    (hop : operandsOf op.toNat = some (.render mk)) {s : Slot} {tex : Option Slot}
    (h : texOk s tex = true) : decodeCmd (encodeFill op s tex false) = .ok (mk s tex) := by
  obtain ⟨t, b, hw, hpair, htex⟩ := encodeFill_fields (op := op) false h
  rw [hw, decodeCmd_cmdWordOf hop (by simpa [FieldUse.Allows, Operands.uses] using hpair)]
  simp [Operands.build, htex]

end

/-! ## Repetition bytes (R96) -/

@[simp] theorem repIsRun_append (x : BitVec 1) (n : BitVec 7) : repIsRun (x ++ n) = x.getLsbD 0 :=
  BitVec.getLsbD_append (x := x) (y := n) (i := 7)

@[simp] theorem repCount_append (x : BitVec 1) (n : BitVec 7) : repCount (x ++ n) = n :=
  BitVec.extractLsb'_append_eq_right

/-- A repetition byte is its bit 7 and its count field. -/
theorem rep_eq_append (b : Byte) : BitVec.ofBool (repIsRun b) ++ repCount b = b := by
  revert b
  decide

theorem decodeRep_raw (n : BitVec 7) : decodeRep (0#1 ++ n) = .raw n := by
  simp [decodeRep]

theorem decodeRep_run (n : BitVec 7) : decodeRep (1#1 ++ n) = .run n := by
  simp [decodeRep]

theorem encode_decodeRep (b : Byte) : (decodeRep b).wf = true ∧ encode (decodeRep b) = .rle8 b := by
  have hb := rep_eq_append b
  unfold decodeRep
  cases h : repIsRun b with
  | true => exact ⟨rfl, congrArg Code.rle8 (by simpa [h] using hb)⟩
  | false => exact ⟨rfl, congrArg Code.rle8 (by simpa [h] using hb)⟩

/-! ## The round trip -/

/-- Settles O1: a command by how its operation code uses the fields, a packet by its byte. -/
theorem decodeOfEncode : Obligations.DecodeOfEncode := by
  intro i hwf
  cases i with
  | nop | pack | unpack | from24 | csk | ihdr => rfl
  | crd | cpk | cac => exact decodeCmd_count rfl (by simpa [Instr.wf] using hwf)
  | inew s | iget s | iset s | idec s | ienc s | zclr s | line s => exact decodeCmd_slot rfl s
  | tri | face => exact decodeCmd_fill rfl hwf
  | render => exact decodeCmd_render rfl hwf
  | raw n => exact congrArg Except.ok (decodeRep_raw n)
  | run n => exact congrArg Except.ok (decodeRep_run n)

/-- Settles O2: the fields of an accepted word are the encoder's, and so is a repetition byte. -/
theorem encodeOfDecode : Obligations.EncodeOfDecode := by
  intro c i h
  cases c with
  | cmd32 w => exact encode_of_decodeCmd h
  | rle8 b =>
    obtain rfl : decodeRep b = i := Except.ok.inj h
    exact encode_decodeRep b

/-! ## Illegal words (R104) -/

/-- Safety's second writing of R101's column "uses" is the operands' own. -/
theorem fieldUse_eq (op : Nat) : fieldUse op = (operandsOf op).map Operands.uses := by
  unfold operandsOf
  split
  case h_20 => simp_all [fieldUse]
  all_goals rfl

/-- The list of R104 and the fields that a command may have. -/
theorem not_wordIllegal_iff {w : Word} :
    ¬ wordIllegal w ↔ ∃ u, fieldUse (cmdFields w).op.toNat = some u ∧ u.Allows (cmdFields w) := by
  unfold wordIllegal FieldUse.Allows cmdFields
  cases fieldUse (w.extractLsb' 0 8).toNat with
  | none => simp
  | some u => grind [BitVec.le_def]

theorem not_wordIllegal_iff_decode {w : Word} : ¬ wordIllegal w ↔ ∃ i, decode (.cmd32 w) = .ok i := by
  rw [not_wordIllegal_iff, fieldUse_eq]
  simp only [decode, decodeCmd_eq_ok]
  cases operandsOf (cmdFields w).op.toNat with
  | none => simp
  | some o => simp

theorem illegalWord_eq (s : State) (w : Word) :
    s.illegalWord w = s.errFrom 7#8 (w.setWidth 64) 0#64 (BitVec.ofNat 64 s.coff) := rfl

/-- Settles O4: a word is illegal by R104 exactly if it does not decode. -/
theorem illegalWordOnlyReports : Obligations.IllegalWordOnlyReports := by
  intro w s rest hdec hhost
  constructor
  · intro hill
    rw [step_of_host hdec hhost]
    rcases runCommand_cases w (s.popHost rest) with ⟨i, hi, -⟩ | ⟨-, -, hrun⟩
    · exact absurd hill (not_wordIllegal_iff_decode.2 ⟨i, hi⟩)
    · exact hrun.trans (congrArg Host.Outcome.next (illegalWord_eq (s.popHost rest) w))
  · intro hlegal
    obtain ⟨i, hi⟩ := not_wordIllegal_iff_decode.1 hlegal
    obtain ⟨-, henc⟩ := encode_of_decodeCmd hi
    exact ⟨i, by simp [Instr.isCommand, henc], hi⟩

/-! ## The opcode table (R110) -/

namespace Operands

/-- The mask of the table's row. -/
def mask : Operands → Word
  | .plain _ => 0xFFFFFFFF#32
  | .count _ => 0xFFF0FFFF#32
  | .slot _ => 0xFFFFFEFF#32
  | .fill _ => 0xFFFFF0FF#32
  | .render _ => 0xFFFFF8FF#32

/-- The condition of the table's row. -/
def condition : Operands → RowCondition
  | .plain _ => .free
  | .count _ => .count
  | .slot _ => .free
  | .fill _ => .texture
  | .render _ => .texture

end Operands

/-- A row of the table is an operation code with the mask and the condition of its operands. -/
theorem operands_of_row {r : CommandRow} (hr : r ∈ commandRows) :
    ∃ op o, operandsOf op.toNat = some o ∧
      r = ⟨r.mnemonic, cmdWordOf op false false false false 0#4, o.mask, o.condition⟩ ∧
      ∀ f, mnemonicOf (o.build f) = r.mnemonic := by
  refine ⟨r.pattern.setWidth 8, ?_⟩
  simp only [commandRows, List.mem_cons, List.not_mem_nil, or_false] at hr
  rcases hr with rfl | rfl | rfl | rfl | rfl | rfl | rfl | rfl | rfl | rfl | rfl | rfl | rfl | rfl | rfl |
    rfl | rfl | rfl | rfl
  all_goals exact ⟨_, rfl, rfl, fun _ => rfl⟩

/-- The mask covers the bits that the operands do not use. -/
theorem Operands.cmdFields_mask (o : Operands) :
    cmdFields o.mask =
      { op := BitVec.allOnes 8, s := !o.uses.s, t := !o.uses.t, tex := !o.uses.tex, zen := !o.uses.zen,
        mid := BitVec.allOnes 4, n := bif o.uses.n then 0#4 else BitVec.allOnes 4,
        hi := BitVec.allOnes 12 } := by
  cases o with
  | plain i | count mk | slot mk | fill mk | render mk =>
    simp only [mask, uses]
    decide

theorem Operands.condition_holds_iff {o : Operands} {w : Word} :
    o.condition.holds w = true ↔
      (o.uses.n = true → (cmdFields w).n ≤ 8#4) ∧
        (o.uses.tex = true →
          if (cmdFields w).tex then (cmdFields w).t ≠ (cmdFields w).s else (cmdFields w).t = false) := by
  cases o with
  | plain i | slot mk => simp [condition, uses, RowCondition.holds]
  | count mk => simp [condition, uses, RowCondition.holds, cmdFields, BitVec.le_def]
  | fill mk | render mk => simp [condition, uses, RowCondition.holds, cmdFields]

/-- A word that selects a row has the row's operation code and fields that its operands allow. -/
theorem allows_of_selects {w : Word} {op : Byte} {o : Operands}
    (hmask : w &&& o.mask = cmdWordOf op false false false false 0#4) (hcond : o.condition.holds w = true) :
    (cmdFields w).op = op ∧ o.uses.Allows (cmdFields w) := by
  obtain ⟨hcount, hpair⟩ := Operands.condition_holds_iff.1 hcond
  have h := congrArg cmdFields hmask
  rw [cmdFields_and, cmdFields_cmdWordOf, Operands.cmdFields_mask, CmdFields.mk.injEq] at h
  simp only [BitVec.and_allOnes] at h
  obtain ⟨hop, hs, ht, htex, hzen, hmid, hn, hhi⟩ := h
  refine ⟨hop, hhi, hmid, by simpa using hs, by simpa using ht, by simpa using htex, by simpa using hzen,
    fun hu => ?_, hcount, hpair⟩
  rwa [hu, cond_false, BitVec.and_allOnes] at hn

theorem encodesItsRow (i : Instr) : Laws.EncodesItsRow.Statement i := by
  cases i with
  | nop => exact Laws.EncodesItsRow.nop
  | pack => exact Laws.EncodesItsRow.pack
  | unpack => exact Laws.EncodesItsRow.unpack
  | from24 => exact Laws.EncodesItsRow.from24
  | crd n => exact Laws.EncodesItsRow.crd n
  | cpk n => exact Laws.EncodesItsRow.cpk n
  | csk => exact Laws.EncodesItsRow.csk
  | cac n => exact Laws.EncodesItsRow.cac n
  | inew s => exact Laws.EncodesItsRow.inew s
  | iget s => exact Laws.EncodesItsRow.iget s
  | iset s => exact Laws.EncodesItsRow.iset s
  | ihdr => exact Laws.EncodesItsRow.ihdr
  | idec s => exact Laws.EncodesItsRow.idec s
  | ienc s => exact Laws.EncodesItsRow.ienc s
  | zclr s => exact Laws.EncodesItsRow.zclr s
  | line s => exact Laws.EncodesItsRow.line s
  | tri s tex zen => exact Laws.EncodesItsRow.tri s tex zen
  | face s tex zen => exact Laws.EncodesItsRow.face s tex zen
  | render s tex => exact Laws.EncodesItsRow.render s tex
  | raw n => exact Laws.EncodesItsRow.raw n
  | run n => exact Laws.EncodesItsRow.run n

/-- A word that decodes selects the row of its instruction: it is that instruction's encoding. -/
theorem row_of_decodeCmd {w : Word} {i : Instr} (h : decodeCmd w = .ok i) :
    ∃ r ∈ commandRows, r.selects w = true ∧ r.mnemonic = mnemonicOf i := by
  obtain ⟨hwf, henc⟩ := encode_of_decodeCmd h
  rcases encodesItsRow i hwf with ⟨v, hv, hrow⟩ | ⟨b, hb, -⟩
  · obtain rfl : v = w := Code.cmd32.inj (hv.symm.trans henc)
    exact hrow
  · simp [henc] at hb

/-- A word that selects a row decodes to an instruction of the row's mnemonic. -/
theorem decodeCmd_of_row {w : Word} {r : CommandRow} (hr : r ∈ commandRows) (h : r.selects w = true) :
    ∃ i, decodeCmd w = .ok i ∧ mnemonicOf i = r.mnemonic := by
  obtain ⟨op, o, hop, hrow, hname⟩ := operands_of_row hr
  rw [hrow] at h
  simp only [CommandRow.selects, Bool.and_eq_true, beq_iff_eq] at h
  obtain ⟨hmask, hcond⟩ := h
  obtain ⟨rfl, hallow⟩ := allows_of_selects hmask hcond
  exact ⟨_, decodeCmd_eq_ok.2 ⟨o, hop, hallow, rfl⟩, hname _⟩

/-- The test of bit 7 that tells the RLE8 rows apart (R96). -/
theorem and_0x80 (b : Byte) : b &&& 0x80#8 = if repIsRun b then 0x80#8 else 0x00#8 := by
  revert b
  decide

/-- Settles O3: rows and words by the operands of the operation code, bytes by bit 7. -/
theorem legalWordsSelectTheirRow : Obligations.LegalWordsSelectTheirRow := by
  refine ⟨fun w => ⟨fun _ => row_of_decodeCmd, fun _ => decodeCmd_of_row⟩, fun b => ?_⟩
  rw [and_0x80]
  simp only [decode, decodeRep]
  cases repIsRun b with
  | true => simp [mnemonicOf]
  | false => simp [mnemonicOf]

/-! ## Words of the spec -/

/-- Settles O5: the decoder evaluated at each code. -/
theorem wordsOfTheSpecDecode : Obligations.WordsOfTheSpecDecode :=
  ⟨rfl, rfl, rfl, rfl, rfl, rfl, rfl⟩

/-! ## A packet step -/

theorem abortDecode_outOfBounds (s : State) (n : Nat) :
    s.abortDecode (outOfBounds s.src n s.coff) s.coff =
      { s.errFrom 1#8 (BitVec.ofNat 64 n) (BitVec.ofNat 64 (s.src.length - s.coff))
          (BitVec.ofNat 64 s.coff) with dec := none } := rfl

/-- Settles O7: the loop fetches the byte at COFF if there is one (R207). -/
theorem stepRunsDecodedPacket : Obligations.StepRunsDecodedPacket := by
  intro s d hd
  have hstep : step s = stepPacket s := by simp [step, hd]
  rw [hstep]
  unfold stepPacket
  rcases fetchRep_cases s with ⟨hend, hfetch⟩ | ⟨hlt, hfetch⟩
  · rw [hfetch]
    refine ⟨fun b i hb _ => ?_, fun hcoff => ?_⟩
    · simp [List.getElem?_eq_none hend] at hb
    · rw [abortDecode_outOfBounds, hcoff, Nat.sub_self]
  · rw [hfetch]
    refine ⟨fun b i hb hi => ?_, fun hcoff => absurd hcoff hlt.ne⟩
    obtain rfl : decodeRep b = i := Except.ok.inj hi
    have hget : s.src.getD s.coff 0#8 = b := by simp [List.getD_eq_getElem?_getD, hb]
    rw [hget]
    rfl

end Sys2Proof.Machine
end

section
/-! Rounding to 53 significant bits (40_numerics_geometry.md R137; log 9): the two nearest magnitudes, seen
from the midpoint between them. -/

namespace Sys2Proof.Machine

/-! ## The binade of a magnitude: `n.log2 - 52`, the exponent of the last of its 53 leading bits -/

theorem lt_of_binade (n : Nat) : n < 2 ^ 53 * 2 ^ (n.log2 - 52) := by
  rw [← pow_add]
  exact Nat.lt_log2_self.trans_le (Nat.pow_le_pow_right two_pos (by omega))

theorem le_of_binade {n : Nat} (h : n.log2 - 52 ≠ 0) : 2 ^ 52 * 2 ^ (n.log2 - 52) ≤ n := by
  have hn : n ≠ 0 := by
    rintro rfl
    exact h (by simp)
  rw [← pow_add, Nat.add_sub_cancel' (by omega)]
  exact Nat.log2_self_le hn

theorem binade_of_bounds {n k : Nat} (hlo : 2 ^ 52 * 2 ^ k ≤ n) (hhi : n < 2 ^ 53 * 2 ^ k) :
    n.log2 - 52 = k := by
  have hlog : n.log2 = 52 + k := by
    rw [Nat.log2_eq_iff ((by positivity : 0 < 2 ^ 52 * 2 ^ k).trans_le hlo).ne']
    exact ⟨by rwa [pow_add], by rw [show 52 + k + 1 = 53 + k by omega, pow_add]; exact hhi⟩
  omega

/-! ## Magnitudes of 53 significant bits -/

theorem F64.rep_zero : F64.Rep 0 := ⟨0, 0, by positivity, by simp⟩

theorem F64.rep_mul_two_pow {a : Nat} (ha : a ≤ 2 ^ 53) (k : Nat) : F64.Rep (a * 2 ^ k) := by
  rcases ha.lt_or_eq with hlt | rfl
  · exact ⟨a, k, hlt, rfl⟩
  · exact ⟨2 ^ 52, k + 1, by norm_num, by ring⟩

theorem F64.rep_two_pow (k : Nat) : F64.Rep (2 ^ k) := ⟨1, k, by norm_num, (one_mul _).symm⟩

/-- Evenness goes with the value: 2^53 in one binade is 2^52 in the next. -/
theorem F64.evenRep_mul_two_pow {a : Nat} (ha : a ≤ 2 ^ 53) (heven : a % 2 = 0) (k : Nat) :
    F64.EvenRep (a * 2 ^ k) := by
  rcases ha.lt_or_eq with hlt | rfl
  · exact ⟨a, k, hlt, heven, rfl⟩
  · exact ⟨2 ^ 52, k + 1, by norm_num, by norm_num, by ring⟩

/-- From 2^52 units of 2^k on, the magnitudes of 53 bits are multiples of 2^k. -/
theorem F64.Rep.dvd_or_lt {m : Nat} (h : F64.Rep m) (k : Nat) : (∃ b, m = b * 2 ^ k) ∨ m < 2 ^ 52 * 2 ^ k := by
  obtain ⟨a, e, ha, rfl⟩ := h
  rcases Nat.lt_or_ge e k with hek | hke
  · right
    calc a * 2 ^ e < 2 ^ 53 * 2 ^ e := Nat.mul_lt_mul_of_pos_right ha (by positivity)
      _ = 2 ^ 52 * 2 ^ (e + 1) := by ring
      _ ≤ 2 ^ 52 * 2 ^ k := Nat.mul_le_mul_left _ (Nat.pow_le_pow_right two_pos hek)
  · left
    exact ⟨a * 2 ^ (e - k), by rw [mul_assoc, ← pow_add, Nat.sub_add_cancel hke]⟩

/-! ## The nearest integer -/

/-- The quotient is off by at most a half, and by a half only when it is even. -/
theorem roundDiv_close {num d : Nat} (hd : 0 < d) :
    2 * num ≤ (2 * roundDiv num d + 1) * d ∧ 2 * roundDiv num d * d ≤ 2 * num + d ∧
    (2 * num = (2 * roundDiv num d + 1) * d ∨ 2 * roundDiv num d * d = 2 * num + d →
      roundDiv num d % 2 = 0) := by
  have hdiv := Nat.div_add_mod' num d
  have hmod := Nat.mod_lt num hd
  have hparity := Nat.mod_two_eq_zero_or_one (num / d)
  unfold roundDiv
  simp only [add_mul, mul_assoc, one_mul]
  generalize num % d = r at *
  generalize num / d = q at *
  split_ifs with hlt hgt
  · omega
  · rw [add_mul]
    omega
  · rcases hparity with he | ho
    · rw [he, add_zero]
      omega
    · rw [ho, add_mul]
      omega

/-- No smaller integer is nearer to `num / d`, and one as near only when the quotient is even. -/
theorem roundDiv_below {num d b : Nat} (hd : 0 < d) (hb : b < roundDiv num d) :
    (b + roundDiv num d) * d ≤ 2 * num ∧
      ((b + roundDiv num d) * d = 2 * num → roundDiv num d % 2 = 0) := by
  obtain ⟨-, hle, htie⟩ := roundDiv_close (num := num) hd
  have hstep : (b + roundDiv num d + 1) * d ≤ 2 * roundDiv num d * d := Nat.mul_le_mul_right d (by omega)
  rw [Nat.succ_mul] at hstep
  exact ⟨by omega, fun h => htie (.inr (by omega))⟩

/-- No greater integer is nearer to `num / d`, and one as near only when the quotient is even. -/
theorem roundDiv_above {num d b : Nat} (hd : 0 < d) (hb : roundDiv num d < b) :
    2 * num ≤ (b + roundDiv num d) * d ∧
      ((b + roundDiv num d) * d = 2 * num → roundDiv num d % 2 = 0) := by
  obtain ⟨hle, -, htie⟩ := roundDiv_close (num := num) hd
  have hstep : (2 * roundDiv num d + 1) * d ≤ (b + roundDiv num d) * d := Nat.mul_le_mul_right d (by omega)
  exact ⟨by omega, fun h => htie (.inl (by omega))⟩

theorem le_roundDiv {num d a : Nat} (hd : 0 < d) (h : a * d ≤ num) : a ≤ roundDiv num d := by
  by_contra hlt
  obtain ⟨hle, heq⟩ := roundDiv_above (num := num) hd (not_le.mp hlt)
  have : (a + roundDiv num d + 1) * d ≤ 2 * a * d := Nat.mul_le_mul_right d (by omega)
  rw [Nat.succ_mul, mul_assoc] at this
  omega

theorem roundDiv_le {num d a : Nat} (hd : 0 < d) (h : num ≤ a * d) : roundDiv num d ≤ a := by
  by_contra hlt
  obtain ⟨hle, heq⟩ := roundDiv_below (num := num) hd (not_le.mp hlt)
  have : (2 * a + 1) * d ≤ (a + roundDiv num d) * d := Nat.mul_le_mul_right d (by omega)
  rw [Nat.succ_mul, mul_assoc] at this
  omega

/-! ## The nearest magnitude of 53 bits -/

/-- The binade whose last bit `roundMag` rounds to. -/
def roundBinade (num den : Nat) : Nat := (num / den).log2 - 52

/-- The significand `roundMag` finds in that binade. -/
def roundSig (num den : Nat) : Nat := roundDiv num (den * 2 ^ roundBinade num den)

theorem roundMag_eq (num den : Nat) : roundMag num den = roundSig num den * 2 ^ roundBinade num den := rfl

theorem roundMag_div (num den : Nat) : roundMag num den / 2 ^ roundBinade num den = roundSig num den := by
  rw [roundMag_eq, Nat.mul_div_cancel _ (by positivity)]

section
variable {num den : Nat} (hden : 0 < den)
include hden

theorem roundSig_le : roundSig num den ≤ 2 ^ 53 := by
  refine roundDiv_le (by positivity) ?_
  have h := (Nat.div_lt_iff_lt_mul hden).mp (lt_of_binade (num / den))
  calc num ≤ 2 ^ 53 * 2 ^ roundBinade num den * den := h.le
    _ = _ := by ring

/-- Above the lowest binade the exact value and so its significand has all 53 bits. -/
theorem binade_start_le (h : roundBinade num den ≠ 0) : 2 ^ 52 * 2 ^ roundBinade num den * den ≤ num :=
  (Nat.le_div_iff_mul_le hden).mp (le_of_binade h)

theorem le_roundSig (h : roundBinade num den ≠ 0) : 2 ^ 52 ≤ roundSig num den := by
  refine le_roundDiv (by positivity) ?_
  calc _ = 2 ^ 52 * 2 ^ roundBinade num den * den := by ring
    _ ≤ num := binade_start_le hden h

theorem rep_roundMag : F64.Rep (roundMag num den) := F64.rep_mul_two_pow (roundSig_le hden) _

theorem evenRep_roundMag (h : roundSig num den % 2 = 0) : F64.EvenRep (roundMag num den) :=
  F64.evenRep_mul_two_pow (roundSig_le hden) h _

/-- Between a smaller magnitude of 53 bits and the result lies a multiple of the result's last bit below the
result, unless the result is the start of its binade, which the exact value has reached. -/
theorem roundMag_below_cases {m : Nat} (hm : F64.Rep m) (hlt : m < roundMag num den) :
    (∃ b < roundSig num den, m ≤ b * 2 ^ roundBinade num den) ∨ roundMag num den * den ≤ num := by
  rcases hm.dvd_or_lt (roundBinade num den) with ⟨b, rfl⟩ | hlow
  · exact .inl ⟨b, lt_of_mul_lt_mul_right hlt (Nat.zero_le _), le_rfl⟩
  · by_cases hk : roundBinade num den = 0
    · refine .inl ⟨m, ?_, ?_⟩
      · simpa [roundMag_eq, hk] using hlt
      · simp [hk]
    · rcases (le_roundSig hden hk).lt_or_eq with hsig | hsig
      · exact .inl ⟨2 ^ 52, hsig, hlow.le⟩
      · right
        rw [roundMag_eq, ← hsig]
        exact binade_start_le hden hk

/-- A greater magnitude of 53 bits is a multiple of the result's last bit. -/
theorem roundMag_above_cases {m : Nat} (hm : F64.Rep m) (hlt : roundMag num den < m) :
    ∃ b, roundSig num den < b ∧ m = b * 2 ^ roundBinade num den := by
  rcases hm.dvd_or_lt (roundBinade num den) with ⟨b, rfl⟩ | hlow
  · exact ⟨b, lt_of_mul_lt_mul_right hlt (Nat.zero_le _), rfl⟩
  · by_cases hk : roundBinade num den = 0
    · refine ⟨m, ?_, ?_⟩
      · simpa [roundMag_eq, hk] using hlt
      · simp [hk]
    · have hstart : 2 ^ 52 * 2 ^ roundBinade num den ≤ roundMag num den :=
        Nat.mul_le_mul_right _ (le_roundSig hden hk)
      omega

omit hden in
/-- The midpoint of two multiples of the last bit, as `roundDiv` compares it with the exact value. -/
theorem midpoint_mul (b c k d : Nat) : (b * 2 ^ k + c * 2 ^ k) * d = (b + c) * (d * 2 ^ k) := by ring

/-- The exact value is not below the midpoint to a smaller magnitude of 53 bits, and on it only when the
significand is even. -/
theorem roundMag_below {m : Nat} (hm : F64.Rep m) (hlt : m < roundMag num den) :
    (m + roundMag num den) * den ≤ 2 * num ∧
      ((m + roundMag num den) * den = 2 * num → roundSig num den % 2 = 0) := by
  rcases roundMag_below_cases hden hm hlt with ⟨b, hb, hmb⟩ | hstart
  · obtain ⟨hle, htie⟩ := roundDiv_below (num := num) (d := den * 2 ^ roundBinade num den) (by positivity) hb
    rw [← roundSig, ← midpoint_mul, ← roundMag_eq] at hle htie
    have hmid : (m + roundMag num den) * den ≤ (b * 2 ^ roundBinade num den + roundMag num den) * den :=
      Nat.mul_le_mul_right _ (by omega)
    exact ⟨hmid.trans hle, fun h => htie (le_antisymm hle (h ▸ hmid))⟩
  · have hstrict : m * den < roundMag num den * den := Nat.mul_lt_mul_of_pos_right hlt hden
    rw [add_mul]
    exact ⟨by omega, fun h => by omega⟩

/-- The exact value is not above the midpoint to a greater magnitude of 53 bits, and on it only when the
significand is even. -/
theorem roundMag_above {m : Nat} (hm : F64.Rep m) (hlt : roundMag num den < m) :
    2 * num ≤ (m + roundMag num den) * den ∧
      ((m + roundMag num den) * den = 2 * num → roundSig num den % 2 = 0) := by
  obtain ⟨b, hb, rfl⟩ := roundMag_above_cases hden hm hlt
  have h := roundDiv_above (num := num) (d := den * 2 ^ roundBinade num den) (by positivity) hb
  rwa [← roundSig, ← midpoint_mul, ← roundMag_eq] at h

/-- A value of 53 bits is its own rounding. -/
theorem roundMag_of_rep {m : Nat} (hm : F64.Rep m) (hexact : num = m * den) : roundMag num den = m := by
  subst hexact
  rcases lt_trichotomy m (roundMag (m * den) den) with hlt | heq | hgt
  · have h := (roundMag_below hden hm hlt).1
    have hstrict := Nat.mul_lt_mul_of_pos_right hlt hden
    rw [add_mul] at h
    omega
  · exact heq.symm
  · have h := (roundMag_above hden hm hgt).1
    have hstrict := Nat.mul_lt_mul_of_pos_right hgt hden
    rw [add_mul] at h
    omega

end

/-- Settles O48: from below and from above, and the tie on either side. -/
theorem roundingIsToNearestEven : Obligations.RoundingIsToNearestEven := by
  intro num den hden
  refine ⟨rep_roundMag hden, fun m hm => ⟨fun hlt => (roundMag_below hden hm hlt).1,
    fun hgt => (roundMag_above hden hm hgt).1, fun hne htie => ?_⟩⟩
  rw [← roundBinade, roundMag_div]
  rcases hne.lt_or_gt with hlt | hgt
  · exact (roundMag_below hden hm hlt).2 htie
  · exact (roundMag_above hden hm hgt).2 htie

end Sys2Proof.Machine
end

section
/-! The square root (40_numerics_geometry.md R137; log 9): its leading bits with a sticky bit lie on the same
side of every midpoint as the exact root. -/

namespace Sys2Proof.Machine

/-! ## The integer root -/

theorem isqrtBits_spec : ∀ (fuel n : Nat), n < 4 ^ fuel →
    isqrtBits fuel n * isqrtBits fuel n ≤ n ∧ n < (isqrtBits fuel n + 1) * (isqrtBits fuel n + 1)
  | 0, n, hn => by
    obtain rfl : n = 0 := Nat.lt_one_iff.mp hn
    exact ⟨le_rfl, zero_lt_one⟩
  | fuel + 1, n, hn => by
    obtain ⟨hlo, hhi⟩ := isqrtBits_spec fuel (n / 4) (by rw [pow_succ] at hn; omega)
    simp only [isqrtBits]
    generalize isqrtBits fuel (n / 4) = r at *
    split_ifs with hbit
    · refine ⟨hbit, ?_⟩
      calc n < 4 * ((r + 1) * (r + 1)) := by omega
        _ = _ := by ring
    · refine ⟨?_, not_le.mp hbit⟩
      calc 2 * r * (2 * r) = 4 * (r * r) := by ring
        _ ≤ n := by omega

/-! ## The leading bits -/

/-- `r` holds the leading 56 bits of the root of `n`, `j` bits are left off, and `s` says whether they are not
all zero. -/
structure RootBits (n j r s : Nat) : Prop where
  full : 2 ^ 55 ≤ r
  bits : r < 2 ^ 56
  le : r * r * 4 ^ j ≤ n
  lt : n < (r + 1) * (r + 1) * 4 ^ j
  sticky : (s = 0 ∧ r * r * 4 ^ j = n) ∨ s = 1

/-- After the shift by `j` pairs of bits 111 or 112 bits are left, the square of 56. -/
theorem shifted_bounds {n : Nat} (hn : 2 ^ 110 ≤ n) :
    2 ^ 110 ≤ n / 4 ^ ((n.log2 - 110) / 2) ∧ n / 4 ^ ((n.log2 - 110) / 2) < 4 ^ 56 := by
  have hne : n ≠ 0 := ((by positivity : 0 < 2 ^ 110).trans_le hn).ne'
  have hlog : 110 ≤ n.log2 := (Nat.le_log2 hne).mpr hn
  have hfour (i : Nat) : 4 ^ i = 2 ^ (2 * i) := (pow_mul 2 2 i).symm
  rw [Nat.le_div_iff_mul_le (by positivity), Nat.div_lt_iff_lt_mul (by positivity), hfour, hfour, ← pow_add,
    ← pow_add]
  exact ⟨(Nat.pow_le_pow_right two_pos (by omega)).trans (Nat.log2_self_le hne),
    Nat.lt_log2_self.trans_le (Nat.pow_le_pow_right two_pos (by omega))⟩

theorem sqrtMag_eq_roundMag {mag : Nat} (hn : 2 ^ 110 ≤ mag * F64.unit) :
    ∃ j r s, RootBits (mag * F64.unit) j r s ∧ sqrtMag mag = roundMag ((2 * r + s) * 2 ^ j) 2 := by
  obtain ⟨hlo, hhi⟩ := shifted_bounds hn
  obtain ⟨hle, hlt⟩ := isqrtBits_spec 56 _ hhi
  refine ⟨_, _, _, ⟨?_, ?_, ?_, ?_, ?_⟩, rfl⟩
  · have := Nat.mul_self_lt_mul_self_iff.mp (show 2 ^ 55 * 2 ^ 55 < _ from hlo.trans_lt hlt)
    omega
  · exact Nat.mul_self_lt_mul_self_iff.mp (hle.trans_lt hhi)
  · exact (Nat.le_div_iff_mul_le (by positivity)).mp hle
  · exact (Nat.div_lt_iff_lt_mul (by positivity)).mp hlt
  · split_ifs with hexact
    · exact .inl ⟨rfl, hexact⟩
    · exact .inr rfl

namespace RootBits
variable {n j r s : Nat} (h : RootBits n j r s)
include h

theorem s_le : s ≤ 1 := by
  rcases h.sticky with ⟨rfl, -⟩ | rfl
  · exact zero_le_one
  · exact le_rfl

/-- The value rounded has three bits more than a significand. -/
theorem roundBinade_eq : roundBinade ((2 * r + s) * 2 ^ j) 2 = j + 3 := by
  have hs := h.s_le
  have hr := h.bits
  refine binade_of_bounds ?_ ?_
  · rw [Nat.le_div_iff_mul_le two_pos]
    calc 2 ^ 52 * 2 ^ (j + 3) * 2 = 2 * 2 ^ 55 * 2 ^ j := by ring
      _ ≤ (2 * r + s) * 2 ^ j := Nat.mul_le_mul_right _ (by have := h.full; omega)
  · rw [Nat.div_lt_iff_lt_mul two_pos]
    calc (2 * r + s) * 2 ^ j < 2 ^ 57 * 2 ^ j := Nat.mul_lt_mul_of_pos_right (by omega) (by positivity)
      _ = 2 ^ 53 * 2 ^ (j + 3) * 2 := by ring

theorem roundMag_eq_mul : roundMag ((2 * r + s) * 2 ^ j) 2 =
    8 * roundSig ((2 * r + s) * 2 ^ j) 2 * 2 ^ j := by
  rw [roundMag_eq, h.roundBinade_eq]
  ring

omit h in
theorem sq_mul_two_pow (t : Nat) : (2 * t * 2 ^ j) ^ 2 = 4 * (t * t * 4 ^ j) := by
  rw [show 4 = 2 ^ 2 from rfl, ← pow_mul]
  ring

/-- A midpoint that the leading bits with the sticky bit reach, the root reaches. -/
theorem sq_le {t : Nat} (ht : 2 * t * 2 ^ j ≤ (2 * r + s) * 2 ^ j) : (2 * t * 2 ^ j) ^ 2 ≤ 4 * n := by
  have hs := h.s_le
  have htr : t ≤ r := by
    have := Nat.le_of_mul_le_mul_right ht (by positivity)
    omega
  rw [sq_mul_two_pow]
  exact Nat.mul_le_mul_left 4 ((Nat.mul_le_mul_right _ (Nat.mul_le_mul htr htr)).trans h.le)

/-- A midpoint that reaches the leading bits with the sticky bit, reaches the root. -/
theorem le_sq {t : Nat} (ht : (2 * r + s) * 2 ^ j ≤ 2 * t * 2 ^ j) : 4 * n ≤ (2 * t * 2 ^ j) ^ 2 := by
  have hrt := Nat.le_of_mul_le_mul_right ht (by positivity)
  rw [sq_mul_two_pow]
  refine Nat.mul_le_mul_left 4 ?_
  rcases h.sticky with ⟨-, hexact⟩ | rfl
  · have htr : r ≤ t := by omega
    exact hexact.ge.trans (Nat.mul_le_mul_right _ (Nat.mul_le_mul htr htr))
  · have htr : r + 1 ≤ t := by omega
    exact h.lt.le.trans (Nat.mul_le_mul_right _ (Nat.mul_le_mul htr htr))

/-- The root is not below the midpoint to a smaller magnitude of 53 bits. -/
theorem below {m : Nat} (hm : F64.Rep m) (hlt : m < roundMag ((2 * r + s) * 2 ^ j) 2) :
    (m + roundMag ((2 * r + s) * 2 ^ j) 2) ^ 2 ≤ 4 * n := by
  have hM := h.roundMag_eq_mul
  have hcases := roundMag_below_cases two_pos hm hlt
  have hmid (b : Nat) (hb : b < roundSig ((2 * r + s) * 2 ^ j) 2) :=
    (roundMag_below (m := b * 2 ^ (j + 3)) (num := (2 * r + s) * 2 ^ j) two_pos
      (F64.rep_mul_two_pow (hb.le.trans (roundSig_le two_pos)) _)
      (by rw [roundMag_eq, h.roundBinade_eq]; exact Nat.mul_lt_mul_of_pos_right hb (by positivity))).1
  rw [h.roundBinade_eq] at hcases
  rw [hM] at hlt hcases hmid ⊢
  generalize roundSig ((2 * r + s) * 2 ^ j) 2 = c at *
  obtain ⟨t, hsum, ht⟩ : ∃ t, m + 8 * c * 2 ^ j ≤ 2 * t * 2 ^ j ∧ 2 * t * 2 ^ j ≤ (2 * r + s) * 2 ^ j := by
    rcases hcases with ⟨b, hb, hmb⟩ | hstart
    · have hring : b * 2 ^ (j + 3) + 8 * c * 2 ^ j = 2 * (4 * (b + c)) * 2 ^ j := by ring
      have hle := hmid b hb
      exact ⟨4 * (b + c), by omega, by omega⟩
    · have hring : 2 * (8 * c) * 2 ^ j = 8 * c * 2 ^ j * 2 := by ring
      exact ⟨8 * c, by omega, by omega⟩
  exact (Nat.pow_le_pow_left hsum 2).trans (h.sq_le ht)

/-- The root is not above the midpoint to a greater magnitude of 53 bits. -/
theorem above {m : Nat} (hm : F64.Rep m) (hlt : roundMag ((2 * r + s) * 2 ^ j) 2 < m) :
    4 * n ≤ (m + roundMag ((2 * r + s) * 2 ^ j) 2) ^ 2 := by
  obtain ⟨b, -, hmb⟩ := roundMag_above_cases two_pos hm hlt
  have hmid := (roundMag_above two_pos hm hlt).1
  have hsum : m + roundMag ((2 * r + s) * 2 ^ j) 2 =
      2 * (4 * (b + roundSig ((2 * r + s) * 2 ^ j) 2)) * 2 ^ j := by
    rw [hmb, h.roundMag_eq_mul, h.roundBinade_eq]
    ring
  rw [hsum] at hmid ⊢
  exact h.le_sq (by omega)

end RootBits

/-! ## The root of a magnitude -/

theorem le_mul_unit {mag : Nat} (h : 0 < mag) : 2 ^ 110 ≤ mag * F64.unit := by
  have hunit : 2 ^ 110 ≤ F64.unit := by
    unfold F64.unit
    exact pow_le_pow_right₀ one_le_two (by norm_num)
  exact hunit.trans (Nat.le_mul_of_pos_left _ h)

theorem rep_sqrtMag {mag : Nat} (h : 0 < mag) : F64.Rep (sqrtMag mag) := by
  obtain ⟨j, r, s, -, hM⟩ := sqrtMag_eq_roundMag (le_mul_unit h)
  rw [hM]
  exact rep_roundMag two_pos

/-- No magnitude of 53 bits is nearer to the root of `mag * unit`. -/
theorem sqrtMag_nearest {mag m : Nat} (h : 0 < mag) (hm : F64.Rep m) :
    (m < sqrtMag mag → (m + sqrtMag mag) ^ 2 ≤ 4 * (mag * F64.unit)) ∧
    (sqrtMag mag < m → 4 * (mag * F64.unit) ≤ (m + sqrtMag mag) ^ 2) := by
  obtain ⟨j, r, s, hbits, hM⟩ := sqrtMag_eq_roundMag (le_mul_unit h)
  rw [hM]
  exact ⟨hbits.below hm, hbits.above hm⟩

theorem sqrtMag_le {mag p : Nat} (h : 0 < mag) (hp : F64.Rep p) (hlt : mag * F64.unit < p * p) :
    sqrtMag mag ≤ p := by
  by_contra hgt
  have hnear := (sqrtMag_nearest h hp).1 (not_le.mp hgt)
  have hfar : (2 * p) ^ 2 ≤ (p + sqrtMag mag) ^ 2 := Nat.pow_le_pow_left (by omega) 2
  rw [mul_pow, pow_two p] at hfar
  omega

/-- The root of a finite value is at most 2^512, that is 2^1586 units. -/
theorem sqrtMag_lt_limit {mag : Nat} (h : 0 < mag) (hlt : mag < F64.limit) : sqrtMag mag < F64.limit := by
  have hsquare : F64.limit * F64.unit = 2 ^ 1586 * 2 ^ 1586 := by
    unfold F64.limit F64.unit
    rw [← pow_add, ← pow_add]
  have hle : sqrtMag mag ≤ 2 ^ 1586 := by
    refine sqrtMag_le h (F64.rep_two_pow _) ?_
    rw [← hsquare]
    exact Nat.mul_lt_mul_of_pos_right hlt F64.unit_pos
  unfold F64.limit
  exact hle.trans_lt (pow_lt_pow_right₀ one_lt_two (by norm_num))

theorem F64.sqrt_of_pos {mag : Nat} (h : 0 < mag) : (F64.fin false mag).sqrt = .fin false (sqrtMag mag) := by
  simp [F64.sqrt, h.ne']

theorem F64.sqrt_of_neg {mag : Nat} (h : 0 < mag) : (F64.fin true mag).sqrt = .nan := by
  simp [F64.sqrt, h.ne']

/-- Settles O51. -/
theorem sqrtIsNearest : Obligations.SqrtIsNearest :=
  ⟨fun _ hpos _ => ⟨F64.sqrt_of_pos hpos, rep_sqrtMag hpos, fun _ hm => sqrtMag_nearest hpos hm⟩, fun _ => rfl,
    fun _ hpos => F64.sqrt_of_neg hpos, rfl, rfl, rfl⟩

end Sys2Proof.Machine
end

section
/-! The operations on finite operands as one rounding of the exact result, and their special cases
(40_numerics_geometry.md R137; log 9). -/

namespace Sys2Proof.Machine

/-! ## The nearest magnitude to a rational -/

/-- Of two numbers the greater is the nearer to every `x` above their midpoint. -/
theorem abs_sub_of_midpoint_le {x a b : ℚ} (hab : a < b) (hmid : a + b ≤ 2 * x) :
    |x - b| < |x - a| ∨ (|x - b| = |x - a| ∧ a + b = 2 * x) := by
  have ha : |x - a| = x - a := abs_of_nonneg (by linarith)
  rcases hmid.lt_or_eq with hlt | heq
  · left
    rw [ha, abs_lt]
    constructor <;> linarith
  · right
    rw [ha, abs_of_nonpos (by linarith)]
    exact ⟨by linarith, heq⟩

/-- Of two numbers the smaller is the nearer to every `x` below their midpoint. -/
theorem abs_sub_of_le_midpoint {x a b : ℚ} (hab : b < a) (hmid : 2 * x ≤ a + b) :
    |x - b| < |x - a| ∨ (|x - b| = |x - a| ∧ a + b = 2 * x) := by
  have h := abs_sub_of_midpoint_le (x := -x) (neg_lt_neg hab) (by linarith)
  rw [← neg_sub_neg b, ← neg_sub_neg a, abs_sub_comm (-b), abs_sub_comm (-a)]
  exact h.imp id fun ⟨hdist, hsum⟩ => ⟨hdist, by linarith⟩

/-- What `roundMag` finds is the nearest magnitude, ties to even. -/
theorem nearestMag_roundMag {num den : Nat} (hden : 0 < den) :
    F64.NearestMag ((num : ℚ) / den) (roundMag num den) := by
  have hpos : (0 : ℚ) < den := Nat.cast_pos.mpr hden
  have hdouble : 2 * ((num : ℚ) / den) * den = 2 * num := by field_simp
  have heven {m : Nat} (h : (m + roundMag num den) * den = 2 * num → roundSig num den % 2 = 0)
      (htie : (m + roundMag num den : ℚ) = 2 * (num / den)) : F64.EvenRep (roundMag num den) := by
    refine evenRep_roundMag hden (h ?_)
    rw [← htie] at hdouble
    exact_mod_cast hdouble
  refine ⟨rep_roundMag hden, fun m hm hne => ?_⟩
  rcases hne.lt_or_gt with hlt | hgt
  · obtain ⟨hle, htie⟩ := roundMag_below hden hm hlt
    refine (abs_sub_of_midpoint_le (Nat.cast_lt.mpr hlt) ?_).imp id
      fun ⟨hdist, hsum⟩ => ⟨hdist, heven htie hsum⟩
    rw [← mul_le_mul_iff_of_pos_right hpos, hdouble]
    exact_mod_cast hle
  · obtain ⟨hle, htie⟩ := roundMag_above hden hm hgt
    refine (abs_sub_of_le_midpoint (Nat.cast_lt.mpr hgt) ?_).imp id
      fun ⟨hdist, hsum⟩ => ⟨hdist, heven htie hsum⟩
    rw [← mul_le_mul_iff_of_pos_right hpos, hdouble]
    exact_mod_cast hle

/-! ## One rounding -/

/-- `round` rounds the number of its sign and of magnitude `num / den` units. -/
theorem F64.rounded_round {x : ℚ} {neg : Bool} {num den : Nat} (hden : 0 < den)
    (hsign : x ≠ 0 → (neg = true ↔ x < 0)) (hmag : |x| * 2 ^ 1074 = num / den) :
    F64.Rounded x (F64.round neg num den) :=
  ⟨neg, roundMag num den, hsign, hmag ▸ nearestMag_roundMag hden, rfl⟩

theorem F64.real_false_nonneg (p : Nat) : 0 ≤ F64.real false p :=
  div_nonneg (Nat.cast_nonneg p) F64.two_pow_pos.le

theorem F64.real_true (p : Nat) : F64.real true p = -F64.real false p := F64.real_not false p

theorem F64.real_sign {n : Bool} {p : Nat} (h : F64.real n p ≠ 0) : n = true ↔ F64.real n p < 0 := by
  have hnonneg := F64.real_false_nonneg p
  cases n
  · simp [hnonneg]
  · rw [F64.real_true] at h ⊢
    simp [hnonneg.lt_of_ne (neg_ne_zero.mp h).symm]

theorem pos_iff_of_sign {n : Bool} {x : ℚ} (hx : x ≠ 0) (hn : n = true ↔ x < 0) : 0 < x ↔ n = false := by
  rw [← Bool.not_eq_true, hn, not_lt]
  exact hx.symm.le_iff_lt.symm

/-- A product or quotient is negative exactly if the operands' signs differ. -/
theorem sign_ne_iff {n m : Bool} {x y : ℚ} (hx : x ≠ 0) (hy : y ≠ 0) (hn : n = true ↔ x < 0)
    (hm : m = true ↔ y < 0) : (n != m) = true ↔ x * y < 0 := by
  rw [mul_neg_iff, ← hn, ← hm, pos_iff_of_sign hx hn, pos_iff_of_sign hy hm]
  cases n <;> simp

/-! ## Finite operands -/

section
variable (n m : Bool) (p q : Nat)

/-- A sum is one rounding of the sum of the integers, with the sign of a zero sum. -/
theorem F64.add_fin : (F64.fin n p).add (.fin m q) =
    F64.round (if F64.signedMag n p + F64.signedMag m q = 0 then n && m
      else decide (F64.signedMag n p + F64.signedMag m q < 0))
      (F64.signedMag n p + F64.signedMag m q).natAbs 1 := by
  simp only [F64.add]
  split_ifs with hzero
  · rw [hzero, Int.natAbs_zero, F64.round_zero]
  · rfl

theorem F64.rounded_add : F64.Rounded (F64.real n p + F64.real m q) ((F64.fin n p).add (.fin m q)) := by
  have hsum : F64.real n p + F64.real m q = ((F64.signedMag n p + F64.signedMag m q : Int) : ℚ) / 2 ^ 1074 := by
    rw [F64.real, F64.real, ← add_div, Int.cast_add]
  rw [F64.add_fin, hsum]
  generalize F64.signedMag n p + F64.signedMag m q = v
  refine F64.rounded_round one_pos (fun hne => ?_) ?_
  · have hv : v ≠ 0 := by
      rintro rfl
      simp at hne
    rw [if_neg hv, decide_eq_true_iff, div_neg_iff]
    simp [F64.two_pow_pos.not_gt]
  · rw [abs_div, abs_of_pos F64.two_pow_pos, div_mul_cancel₀ _ F64.two_pow_pos.ne', Nat.cast_natAbs]
    simp

theorem F64.add_of_real_zero (h : F64.real n p + F64.real m q = 0) :
    (F64.fin n p).add (.fin m q) = .fin (n && m) 0 := by
  have hv : F64.signedMag n p + F64.signedMag m q = 0 := by
    have hunits := congrArg (· * (2 : ℚ) ^ 1074) h
    simp only [add_mul, F64.real_mul_unit, zero_mul] at hunits
    exact_mod_cast hunits
  simp [F64.add, hv]

theorem F64.rounded_mul : F64.Rounded (F64.real n p * F64.real m q) ((F64.fin n p).mul (.fin m q)) := by
  rw [F64.mul_fin]
  refine F64.rounded_round F64.unit_pos (fun hne => ?_) ?_
  · obtain ⟨hx, hy⟩ := mul_ne_zero_iff.mp hne
    exact sign_ne_iff hx hy (F64.real_sign hx) (F64.real_sign hy)
  · rw [F64.cast_unit, eq_div_iff F64.two_pow_pos.ne', abs_mul, Nat.cast_mul p q, ← F64.abs_real n p,
      ← F64.abs_real m q]
    generalize (2 : ℚ) ^ 1074 = u
    ring

theorem F64.mul_of_real_zero (h : F64.real n p * F64.real m q = 0) :
    (F64.fin n p).mul (.fin m q) = .fin (n != m) 0 := by
  rw [mul_eq_zero, F64.real_eq_zero, F64.real_eq_zero, ← Nat.mul_eq_zero] at h
  rw [F64.mul_fin, h, F64.round_zero]

theorem F64.div_fin (hq : q ≠ 0) :
    (F64.fin n p).div (.fin m q) = F64.round (n != m) (p * F64.unit) q := if_neg hq

theorem F64.rounded_div (hy : F64.real m q ≠ 0) :
    F64.Rounded (F64.real n p / F64.real m q) ((F64.fin n p).div (.fin m q)) := by
  have hq : q ≠ 0 := mt (F64.real_eq_zero m q).mpr hy
  rw [F64.div_fin n m p q hq, div_eq_mul_inv]
  refine F64.rounded_round (Nat.pos_of_ne_zero hq) (fun hne => ?_) ?_
  · obtain ⟨hx, hinv⟩ := mul_ne_zero_iff.mp hne
    exact sign_ne_iff hx hinv (F64.real_sign hx) ((F64.real_sign hy).trans inv_neg''.symm)
  · rw [eq_div_iff (Nat.cast_ne_zero.mpr hq), abs_mul, abs_inv, Nat.cast_mul, F64.cast_unit,
      ← F64.abs_real n p, ← F64.abs_real m q]
    have := abs_ne_zero.mpr hy
    field_simp

theorem F64.div_of_real_zero (hy : F64.real m q ≠ 0) (hx : F64.real n p = 0) :
    (F64.fin n p).div (.fin m q) = .fin (n != m) 0 := by
  rw [F64.div_fin n m p q (mt (F64.real_eq_zero m q).mpr hy), (F64.real_eq_zero n p).mp hx, zero_mul,
    F64.round_zero]

theorem F64.div_by_zero (hy : F64.real m q = 0) :
    (F64.fin n p).div (.fin m q) = if F64.real n p = 0 then .nan else .inf (n != m) := by
  rw [(F64.real_eq_zero m q).mp hy]
  simp [F64.div, F64.real_eq_zero]

end

/-! ## Values binary64 has -/

theorem F64.ok_fin (neg : Bool) (mag : Nat) : (F64.fin neg mag).Ok ↔ F64.Rep mag ∧ mag < F64.limit := Iff.rfl

theorem F64.ok_zero (neg : Bool) : (F64.fin neg 0).Ok :=
  (F64.ok_fin neg 0).mpr ⟨F64.rep_zero, F64.limit_pos⟩

theorem F64.ok_ite {c : Prop} {dec : Decidable c} {v w : F64} (hv : c → v.Ok) (hw : w.Ok) :
    (if c then v else w).Ok := by
  split_ifs with hc
  · exact hv hc
  · exact hw

theorem F64.ok_of_rep (neg : Bool) {m l : Nat} (hrep : F64.Rep m) (hl : l = F64.limit) :
    (if m < l then F64.fin neg m else .inf neg).Ok :=
  F64.ok_ite (fun hlt => (F64.ok_fin neg m).mpr ⟨hrep, hl ▸ hlt⟩) trivial

theorem F64.limit_eq : F64.limit = 2 ^ 2098 := by rw [F64.limit]

theorem F64.Rounded.ok {x : ℚ} {v : F64} (h : F64.Rounded x v) : v.Ok := by
  obtain ⟨neg, m, -, ⟨hrep, -⟩, hv⟩ := h
  have hl := F64.limit_eq
  generalize 2 ^ 2098 = l at hv hl
  rw [hv]
  exact F64.ok_of_rep neg hrep hl.symm

theorem F64.add_nan (a : F64) : a.add .nan = .nan := by cases a <;> rfl
theorem F64.mul_nan (a : F64) : a.mul .nan = .nan := by cases a <;> rfl
theorem F64.div_nan (a : F64) : a.div .nan = .nan := by cases a <;> rfl

theorem F64.fin_mul_inf (n m : Bool) (p : Nat) :
    (F64.fin n p).mul (.inf m) = if p = 0 then .nan else .inf (n != m) := rfl

theorem F64.ok_add (a b : F64) : (a.add b).Ok := by
  cases a with
  | nan => trivial
  | inf n =>
    cases b with
    | nan => trivial
    | inf m => exact F64.ok_ite (fun _ => trivial) trivial
    | fin m q => trivial
  | fin n p =>
    cases b with
    | nan => trivial
    | inf m => trivial
    | fin m q => exact (F64.rounded_add n m p q).ok

theorem F64.ok_mul (a b : F64) : (a.mul b).Ok := by
  cases a with
  | nan => trivial
  | inf n =>
    cases b with
    | nan => trivial
    | inf m => trivial
    | fin m q => exact F64.ok_ite (fun _ => trivial) trivial
  | fin n p =>
    cases b with
    | nan => trivial
    | inf m =>
      rw [F64.fin_mul_inf]
      exact F64.ok_ite (fun _ => trivial) trivial
    | fin m q =>
      have h := F64.rounded_mul n m p q
      generalize (F64.fin n p).mul (.fin m q) = v at h ⊢
      exact h.ok

theorem F64.ok_div (a b : F64) : (a.div b).Ok := by
  cases a with
  | nan => trivial
  | inf n => cases b <;> trivial
  | fin n p =>
    cases b with
    | nan => trivial
    | inf m => exact F64.ok_zero _
    | fin m q =>
      by_cases hy : F64.real m q = 0
      · rw [F64.div_by_zero n m p q hy]
        exact F64.ok_ite (fun _ => trivial) trivial
      · exact (F64.rounded_div n m p q hy).ok

theorem F64.ok_sqrt {a : F64} (ha : a.Ok) : a.sqrt.Ok := by
  cases a with
  | nan => trivial
  | inf n => exact F64.ok_ite (fun _ => trivial) trivial
  | fin n p =>
    have hlt := ((F64.ok_fin n p).mp ha).2
    rcases p.eq_zero_or_pos with rfl | hp
    · exact F64.ok_zero n
    · cases n
      · rw [F64.sqrt_of_pos hp, F64.ok_fin]
        exact ⟨rep_sqrtMag hp, sqrtMag_lt_limit hp hlt⟩
      · rw [F64.sqrt_of_neg hp]
        trivial

theorem F64.ok_neg {a : F64} (ha : a.Ok) : a.neg.Ok := by cases a <;> exact ha

theorem F64.ok_abs {a : F64} (ha : a.Ok) : a.abs.Ok := by cases a <;> exact ha

/-! ## The special cases -/

theorem F64.inf_sub_inf (n m : Bool) : (F64.inf n).sub (.inf m) = if n = m then .nan else .inf n := by
  cases n <;> cases m <;> rfl

/-- Settles O50: the values first, then the finite operands, the infinities and the NaN. -/
theorem floatOperationsRoundOnce : Obligations.FloatOperationsRoundOnce := by
  refine ⟨fun a b ha hb => ⟨F64.ok_add a b, F64.ok_add a b.neg, F64.ok_mul a b, F64.ok_div a b, F64.ok_sqrt ha,
    F64.ok_abs ha, F64.ok_neg ha⟩, fun n m p q => ?_, fun n m => ?_, fun n m q => ?_, fun a f hf => ?_⟩
  · refine ⟨⟨F64.rounded_add n m p q, F64.add_of_real_zero n m p q⟩, ⟨?_, ?_⟩,
      ⟨F64.rounded_mul n m p q, F64.mul_of_real_zero n m p q⟩,
      fun hy => ⟨F64.rounded_div n m p q hy, F64.div_of_real_zero n m p q hy⟩,
      F64.div_by_zero n m p q, rfl, rfl⟩
    · rw [sub_eq_add_neg, ← F64.real_not]
      exact F64.rounded_add n (!m) p q
    · rw [sub_eq_add_neg, ← F64.real_not]
      exact F64.add_of_real_zero n (!m) p q
  · exact ⟨rfl, F64.inf_sub_inf n m, rfl, rfl, rfl, rfl⟩
  · exact ⟨rfl, rfl, rfl, rfl, rfl, rfl, rfl, rfl⟩
  · simp only [List.mem_cons, List.not_mem_nil, or_false] at hf
    rcases hf with rfl | rfl | rfl | rfl
    · exact ⟨rfl, F64.add_nan a⟩
    · exact ⟨rfl, F64.add_nan a⟩
    · exact ⟨rfl, F64.mul_nan a⟩
    · exact ⟨rfl, F64.div_nan a⟩

end Sys2Proof.Machine
end

section
/-! The layout of a binary64 pattern and the values it stands for (40_numerics_geometry.md R136; logs 8, 9). -/

namespace Sys2Proof.Machine

/-! ## Sign, exponent and fraction -/

/-- The value of a sign, a biased exponent and a fraction. -/
def F64.ofFields (neg : Bool) (e f : Nat) : F64 :=
  if e = 2047 then (if f = 0 then .inf neg else .nan)
  else if e = 0 then .fin neg f
  else .fin neg ((2 ^ 52 + f) * 2 ^ (e - 1))

theorem F64.ofBits_eq (b : Dword) :
    F64.ofBits b = F64.ofFields b.msb (b.extractLsb' 52 11).toNat (b.extractLsb' 0 52).toNat := rfl

theorem F64.toNat_signed (neg : Bool) (bits : Nat) :
    (F64.signed neg bits).toNat = neg.toNat * 2 ^ 63 + bits % 2 ^ 63 := by
  rw [F64.signed, BitVec.toNat_append, BitVec.toNat_ofNat,
    ← Nat.shiftLeft_add_eq_or_of_lt (Nat.mod_lt _ (by norm_num)), Nat.shiftLeft_eq]
  cases neg <;> rfl

theorem exponent_toNat (b : Dword) : (b.extractLsb' 52 11).toNat = b.toNat / 2 ^ 52 % 2 ^ 11 := by
  rw [BitVec.extractLsb'_toNat, Nat.shiftRight_eq_div_pow]

theorem fraction_toNat (b : Dword) : (b.extractLsb' 0 52).toNat = b.toNat % 2 ^ 52 := by
  rw [BitVec.extractLsb'_toNat, Nat.shiftRight_zero]

theorem sign_toNat (b : Dword) : b.msb.toNat = b.toNat / 2 ^ 63 := by
  have hb := b.isLt
  rw [BitVec.msb_eq_decide]
  rcases Nat.lt_or_ge b.toNat (2 ^ (64 - 1)) with h | h
  · rw [decide_eq_false (not_le.mpr h), Bool.toNat_false]
    omega
  · rw [decide_eq_true h, Bool.toNat_true]
    omega

/-- A pattern is its sign, exponent and fraction. -/
theorem signed_of_fields (b : Dword) :
    F64.signed b.msb ((b.extractLsb' 52 11).toNat * 2 ^ 52 + (b.extractLsb' 0 52).toNat) = b := by
  apply BitVec.eq_of_toNat_eq
  rw [F64.toNat_signed, sign_toNat, exponent_toNat, fraction_toNat]
  have := b.isLt
  omega

theorem exponent_of_sum (n : Nat) {e f : Nat} (he : e < 2 ^ 11) (hf : f < 2 ^ 52) :
    (n * 2 ^ 63 + (e * 2 ^ 52 + f)) / 2 ^ 52 % 2 ^ 11 = e := by omega

theorem fraction_of_sum (n e : Nat) {f : Nat} (hf : f < 2 ^ 52) :
    (n * 2 ^ 63 + (e * 2 ^ 52 + f)) % 2 ^ 52 = f := by omega

theorem F64.ofBits_signed (neg : Bool) {e f : Nat} (he : e < 2 ^ 11) (hf : f < 2 ^ 52) :
    F64.ofBits (F64.signed neg (e * 2 ^ 52 + f)) = F64.ofFields neg e f := by
  have hbits : (e * 2 ^ 52 + f) % 2 ^ 63 = e * 2 ^ 52 + f := Nat.mod_eq_of_lt (by omega)
  have hsign : (F64.signed neg (e * 2 ^ 52 + f)).msb = neg := by
    rw [F64.signed, BitVec.msb_append, if_neg one_ne_zero]
    cases neg <;> rfl
  rw [F64.ofBits_eq, hsign, exponent_toNat, fraction_toNat, F64.toNat_signed, hbits, exponent_of_sum _ he hf,
    fraction_of_sum _ _ hf]

/-! ## The pattern of a magnitude -/

/-- A magnitude of the lowest binade, subnormal or not, is its own pattern. -/
theorem F64.magBits_of_lt {mag : Nat} (h : mag < 2 ^ 53) : F64.magBits mag = mag := by
  have hk : mag.log2 - 52 = 0 := by
    by_contra hk
    have hle := le_of_binade hk
    have hone : 2 ≤ 2 ^ (mag.log2 - 52) := Nat.le_self_pow hk 2
    omega
  rw [F64.magBits, hk]
  simp

/-- Of a magnitude in a higher binade the leading bit goes into the exponent. -/
theorem F64.magBits_mul {f k : Nat} (hf : f < 2 ^ 52) :
    F64.magBits ((2 ^ 52 + f) * 2 ^ k) = (k + 1) * 2 ^ 52 + f := by
  have hk : ((2 ^ 52 + f) * 2 ^ k).log2 - 52 = k :=
    binade_of_bounds (Nat.mul_le_mul_right _ (by omega)) (Nat.mul_lt_mul_of_pos_right (by omega) (by positivity))
  rw [F64.magBits, hk, Nat.mul_div_cancel _ (by positivity)]
  ring

/-- A magnitude of 53 bits is a fraction, or has a leading bit and a fraction in its binade. -/
theorem F64.Rep.fraction_or_normal {mag : Nat} (h : F64.Rep mag) :
    mag < 2 ^ 52 ∨ ∃ f k, f < 2 ^ 52 ∧ mag = (2 ^ 52 + f) * 2 ^ k := by
  rcases Nat.lt_or_ge mag (2 ^ 52) with hlt | hge
  · exact .inl hlt
  · right
    have hlo : 2 ^ 52 * 2 ^ (mag.log2 - 52) ≤ mag := by
      by_cases hk : mag.log2 - 52 = 0
      · rw [hk]
        omega
      · exact le_of_binade hk
    rcases h.dvd_or_lt (mag.log2 - 52) with ⟨b, hb⟩ | hlow
    · have hhi := lt_of_binade mag
      generalize mag.log2 - 52 = k at *
      subst hb
      have hlead := Nat.le_of_mul_le_mul_right hlo (by positivity)
      have hbits := lt_of_mul_lt_mul_right hhi (Nat.zero_le _)
      exact ⟨b - 2 ^ 52, k, by omega, by rw [Nat.add_sub_cancel' hlead]⟩
    · exact absurd hlow (not_lt.mpr hlo)

/-! ## The fields of each kind of value -/

theorem F64.ofFields_zero (neg : Bool) (f : Nat) : F64.ofFields neg 0 f = .fin neg f := rfl

theorem F64.ofFields_succ (neg : Bool) {k : Nat} (hk : k < 2046) (f : Nat) :
    F64.ofFields neg (k + 1) f = .fin neg ((2 ^ 52 + f) * 2 ^ k) := by
  rw [F64.ofFields, if_neg (by omega), if_neg (by omega), Nat.add_sub_cancel]

theorem F64.ofFields_nan (neg : Bool) {f : Nat} (hf : f ≠ 0) : F64.ofFields neg 2047 f = .nan := by
  rw [F64.ofFields, if_pos rfl, if_neg hf]

/-- The exponents 1 to 2046 are those below the limit. -/
theorem F64.mul_two_pow_lt_limit {f k : Nat} (hf : f < 2 ^ 52) : (2 ^ 52 + f) * 2 ^ k < F64.limit ↔ k < 2046 := by
  rw [F64.limit]
  constructor
  · intro h
    have hle : 2 ^ (52 + k) ≤ (2 ^ 52 + f) * 2 ^ k := by
      rw [pow_add]
      exact Nat.mul_le_mul_right _ (by omega)
    have := (Nat.pow_lt_pow_iff_right (by norm_num)).mp (hle.trans_lt h)
    omega
  · intro h
    calc (2 ^ 52 + f) * 2 ^ k < 2 ^ 53 * 2 ^ k := Nat.mul_lt_mul_of_pos_right (by omega) (by positivity)
      _ = 2 ^ (53 + k) := (pow_add ..).symm
      _ ≤ 2 ^ 2098 := pow_le_pow_right₀ one_le_two (by omega)

theorem F64.lt_limit_of_lt {mag : Nat} (h : mag < 2 ^ 53) : mag < F64.limit := by
  rw [F64.limit]
  exact h.trans_le (pow_le_pow_right₀ one_le_two (by norm_num))

/-- The fields give a value binary64 has, and its pattern is made of them again, but for a NaN. -/
theorem F64.ofFields_spec (neg : Bool) {e f : Nat} (he : e < 2 ^ 11) (hf : f < 2 ^ 52) :
    (F64.ofFields neg e f).Ok ∧
      (F64.ofFields neg e f ≠ .nan → (F64.ofFields neg e f).toBits = F64.signed neg (e * 2 ^ 52 + f)) := by
  rcases e.eq_zero_or_eq_succ_pred with he0 | hsucc
  · rw [he0, F64.ofFields_zero, F64.ok_fin]
    refine ⟨⟨⟨f, 0, by omega, by omega⟩, F64.lt_limit_of_lt (by omega)⟩, fun _ => ?_⟩
    rw [F64.toBits, F64.magBits_of_lt (by omega), zero_mul, zero_add]
  · generalize e.pred = k at hsucc
    subst hsucc
    rcases Nat.lt_or_ge k 2046 with hk | hk
    · rw [F64.ofFields_succ neg hk, F64.ok_fin]
      refine ⟨⟨F64.rep_mul_two_pow (by omega) k, (F64.mul_two_pow_lt_limit hf).mpr hk⟩, fun _ => ?_⟩
      rw [F64.toBits, F64.magBits_mul hf]
    · obtain rfl : k = 2046 := by omega
      rcases f.eq_zero_or_pos with rfl | hpos
      · exact ⟨trivial, fun _ => rfl⟩
      · rw [F64.ofFields_nan neg hpos.ne']
        exact ⟨trivial, fun h => absurd rfl h⟩

/-! ## Back from the pattern -/

theorem F64.ofBits_of_nan_fields {b : Dword} (he : b.extractLsb' 52 11 = 2047#11)
    (hf : b.extractLsb' 0 52 ≠ 0#52) : F64.ofBits b = .nan := by
  have hne : (b.extractLsb' 0 52).toNat ≠ 0 := fun h => hf (BitVec.eq_of_toNat_eq h)
  rw [F64.ofBits_eq, he]
  exact F64.ofFields_nan _ hne

/-- A pattern with the exponent of the infinities keeps it when more bits are set. -/
theorem exponent_or (x y : Dword) (hy : y.extractLsb' 52 11 = 2047#11) :
    (x ||| y).extractLsb' 52 11 = 2047#11 := by
  rw [BitVec.extractLsb'_or, hy]
  exact BitVec.or_allOnes

/-- Whatever the free bits, the pattern has the greatest exponent and a fraction that is not zero. -/
theorem F64.ofBits_nanPattern : F64.ofBits F64.nanPattern = .nan := by
  have hexp := exponent_or Config.nanBits 0x7FF0000000000000#64 (by decide)
  unfold F64.nanPattern
  generalize Config.nanBits ||| 0x7FF0000000000000#64 = p at *
  by_cases hzero : p.extractLsb' 0 52 = 0#52
  · simp only [hzero, if_true]
    refine F64.ofBits_of_nan_fields ?_ ?_
    · rw [BitVec.or_comm]
      exact exponent_or _ p hexp
    · rw [BitVec.extractLsb'_or, hzero]
      decide
  · simp only [hzero, if_false]
    exact F64.ofBits_of_nan_fields hexp hzero

theorem F64.ofBits_toBits {v : F64} (h : v.Ok) : F64.ofBits v.toBits = v := by
  cases v with
  | nan => exact F64.ofBits_nanPattern
  | inf neg =>
    exact F64.ofBits_signed neg (e := 2047) (f := 0) (by norm_num) (by norm_num)
  | fin neg mag =>
    obtain ⟨hrep, hlt⟩ := (F64.ok_fin neg mag).mp h
    rw [F64.toBits]
    rcases hrep.fraction_or_normal with hfrac | ⟨f, k, hf, rfl⟩
    · rw [F64.magBits_of_lt (hfrac.trans (by norm_num))]
      have hpat := F64.ofBits_signed neg (e := 0) (by norm_num) hfrac
      rwa [zero_mul, zero_add] at hpat
    · have hk := (F64.mul_two_pow_lt_limit hf).mp hlt
      rw [F64.magBits_mul hf, F64.ofBits_signed neg (by omega) hf, F64.ofFields_succ neg hk]

/-- Settles O49. -/
theorem bitPatternsAndValues : Obligations.BitPatternsAndValues := by
  refine ⟨fun b => ?_, fun v => F64.ofBits_toBits⟩
  have hspec := F64.ofFields_spec b.msb (b.extractLsb' 52 11).isLt (b.extractLsb' 0 52).isLt
  rwa [signed_of_fields, ← F64.ofBits_eq] at hspec

end Sys2Proof.Machine
end

section
/-! Conversions and comparisons (40_numerics_geometry.md R138, R139). -/

namespace Sys2Proof.Machine

/-! ## The number line -/

/-- The place of a finite value. -/
def F64.finPlace (n : Bool) (p : Nat) : WithBot (WithTop ℚ) := (F64.real n p : WithTop ℚ)

theorem F64.place_nan : F64.nan.place = none := rfl
theorem F64.place_negInf : (F64.inf true).place = some ⊥ := rfl
theorem F64.place_posInf : (F64.inf false).place = some ⊤ := rfl
theorem F64.place_fin (n : Bool) (p : Nat) : (F64.fin n p).place = some (F64.finPlace n p) := rfl

theorem F64.finPlace_lt (n m : Bool) (p q : Nat) :
    F64.finPlace n p < F64.finPlace m q ↔ F64.signedMag n p < F64.signedMag m q := by
  rw [F64.finPlace, F64.finPlace, WithBot.coe_lt_coe, WithTop.coe_lt_coe, F64.real_lt_iff]

theorem F64.finPlace_inj (n m : Bool) (p q : Nat) :
    F64.finPlace n p = F64.finPlace m q ↔ F64.signedMag n p = F64.signedMag m q := by
  rw [F64.finPlace, F64.finPlace, WithBot.coe_inj, WithTop.coe_inj, F64.real, F64.real,
    div_left_inj' F64.two_pow_pos.ne', Int.cast_inj]

theorem F64.bot_lt_finPlace (n : Bool) (p : Nat) : ⊥ < F64.finPlace n p := WithBot.bot_lt_coe _

theorem F64.finPlace_lt_top (n : Bool) (p : Nat) : F64.finPlace n p < ⊤ :=
  WithBot.coe_lt_coe.mpr (WithTop.coe_lt_top _)

/-! ## Comparisons -/

/-- A relation of the places of two values that have them. -/
theorem exists_places {x y : WithBot (WithTop ℚ)} {r : WithBot (WithTop ℚ) → WithBot (WithTop ℚ) → Prop} :
    (∃ x' y', some x = some x' ∧ some y = some y' ∧ r x' y') ↔ r x y :=
  ⟨fun ⟨_, _, hx, hy, h⟩ => Option.some.inj hx ▸ Option.some.inj hy ▸ h, fun h => ⟨x, y, rfl, rfl, h⟩⟩

theorem F64.lt_iff (a b : F64) :
    a.lt b = true ↔ ∃ x y, a.place = some x ∧ b.place = some y ∧ x < y := by
  cases a with
  | nan => simp [F64.lt, F64.place_nan]
  | inf n =>
    cases b with
    | nan => simp [F64.lt, F64.place_nan]
    | inf m => cases n <;> cases m <;> simp [F64.lt, F64.place_negInf, F64.place_posInf]
    | fin m q =>
      cases n
      · rw [F64.place_posInf, F64.place_fin, exists_places]
        simp [F64.lt]
      · rw [F64.place_negInf, F64.place_fin, exists_places]
        simp [F64.lt, F64.bot_lt_finPlace]
  | fin n p =>
    cases b with
    | nan => simp [F64.lt, F64.place_nan]
    | inf m =>
      cases m
      · rw [F64.place_posInf, F64.place_fin, exists_places]
        simp [F64.lt, F64.finPlace_lt_top]
      · rw [F64.place_negInf, F64.place_fin, exists_places]
        simp [F64.lt]
    | fin m q =>
      rw [F64.place_fin, F64.place_fin, exists_places, F64.finPlace_lt]
      exact decide_eq_true_iff

theorem F64.eq_iff (a b : F64) : a.eq b = true ↔ ∃ x, a.place = some x ∧ b.place = some x := by
  cases a with
  | nan => simp [F64.eq, F64.place_nan]
  | inf n =>
    cases b with
    | nan => simp [F64.eq, F64.place_nan]
    | inf m => cases n <;> cases m <;> simp [F64.eq, F64.place_negInf, F64.place_posInf]
    | fin m q =>
      cases n
      · simp [F64.eq, F64.place_posInf, F64.place_fin, (F64.finPlace_lt_top m q).ne]
      · simp [F64.eq, F64.place_negInf, F64.place_fin, (F64.bot_lt_finPlace m q).ne']
  | fin n p =>
    cases b with
    | nan => simp [F64.eq, F64.place_nan]
    | inf m =>
      cases m
      · simp [F64.eq, F64.place_posInf, F64.place_fin, (F64.finPlace_lt_top n p).ne']
      · simp [F64.eq, F64.place_negInf, F64.place_fin, (F64.bot_lt_finPlace n p).ne]
    | fin m q =>
      simp only [F64.place_fin, Option.some_inj, exists_eq_left', F64.finPlace_inj]
      exact beq_iff_eq.trans eq_comm

theorem F64.le_iff (a b : F64) :
    a.le b = true ↔ ∃ x y, a.place = some x ∧ b.place = some y ∧ x ≤ y := by
  rw [F64.le, Bool.or_eq_true, F64.lt_iff, F64.eq_iff]
  constructor
  · rintro (⟨x, y, hx, hy, hlt⟩ | ⟨x, hx, hy⟩)
    · exact ⟨x, y, hx, hy, hlt.le⟩
    · exact ⟨x, x, hx, hy, le_rfl⟩
  · rintro ⟨x, y, hx, hy, hle⟩
    rcases hle.lt_or_eq with hlt | rfl
    · exact .inl ⟨x, y, hx, hy, hlt⟩
    · exact .inr ⟨x, hx, hy⟩

/-- `>` and `>=` are `<` and `<=` with the operands exchanged. -/
theorem exists_places_swap {a b : F64} {r : WithBot (WithTop ℚ) → WithBot (WithTop ℚ) → Prop} :
    (∃ x y, a.place = some x ∧ b.place = some y ∧ r x y) ↔
      ∃ x y, b.place = some x ∧ a.place = some y ∧ r y x :=
  ⟨fun ⟨x, y, hx, hy, h⟩ => ⟨y, x, hy, hx, h⟩, fun ⟨x, y, hx, hy, h⟩ => ⟨y, x, hy, hx, h⟩⟩

theorem F64.ne_iff (a b : F64) : a.ne b = true ↔ ¬ a.eq b = true := by simp [F64.ne]

theorem F64.nan_ge (a : F64) : F64.nan.ge a = false := by cases a <;> rfl

theorem F64.nan_gt (a : F64) : F64.nan.gt a = false := by cases a <;> rfl

/-- Only a value with a place above the lower end is greater than minus infinity. -/
theorem F64.gt_neg_inf (z : F64) : z.gt (.inf true) = true ↔ z ≠ .nan ∧ z ≠ .inf true := by
  cases z with
  | nan => simp [F64.gt, F64.lt]
  | inf n => cases n <;> simp [F64.gt, F64.lt]
  | fin n p => simp [F64.gt, F64.lt]

theorem F64.isFinite_iff (a : F64) : a.isFinite = true ↔ a ≠ .nan ∧ ∀ n, a ≠ .inf n := by
  cases a <;> simp [F64.isFinite]

/-! ## Integers -/

theorem F64.round_of_roundMag {neg : Bool} {num den m : Nat} (hm : roundMag num den = m) (hlt : m < F64.limit) :
    F64.round neg num den = .fin neg m := by
  unfold F64.round
  rw [hm]
  generalize F64.limit = l at hlt
  exact if_pos hlt

theorem F64.rep_mul_unit {a : Nat} (ha : a ≤ 2 ^ 53) : F64.Rep (a * F64.unit) := by
  rw [F64.unit]
  exact F64.rep_mul_two_pow ha _

theorem F64.mul_unit_lt_limit {a : Nat} (ha : a < 2 ^ 17) : a * F64.unit < F64.limit := by
  have hlimit : 2 ^ 17 * F64.unit ≤ F64.limit := by
    rw [F64.unit, F64.limit, ← pow_add]
    exact pow_le_pow_right₀ one_le_two (by norm_num)
  exact (Nat.mul_lt_mul_of_pos_right ha F64.unit_pos).trans_le hlimit

theorem F64.signedMag_natAbs_mul (i : Int) (a : Nat) :
    F64.signedMag (decide (i < 0)) (i.natAbs * a) = i * a := by
  rcases lt_or_ge i 0 with hneg | hpos
  · rw [decide_eq_true hneg, F64.signedMag, if_pos rfl, Nat.cast_mul, Int.ofNat_natAbs_of_nonpos hneg.le, neg_mul,
      neg_neg]
  · rw [decide_eq_false hpos.not_gt, F64.signedMag, if_neg Bool.false_ne_true, Nat.cast_mul,
      Int.natAbs_of_nonneg hpos]

/-- An integer below 2^17 is a magnitude of 53 bits, so the one rounding leaves it. -/
theorem F64.ofInt_exact {i : Int} (hi : i.natAbs < 2 ^ 17) :
    ∃ neg mag, F64.ofInt i = .fin neg mag ∧ F64.real neg mag = i := by
  by_cases hzero : i = 0
  · subst hzero
    exact ⟨false, 0, rfl, by rw [(F64.real_eq_zero false 0).mpr rfl, Int.cast_zero]⟩
  · have hround : roundMag (i.natAbs * F64.unit) 1 = i.natAbs * F64.unit :=
      roundMag_of_rep one_pos (F64.rep_mul_unit (by omega)) (mul_one _).symm
    refine ⟨decide (i < 0), i.natAbs * F64.unit, ?_, ?_⟩
    · rw [F64.ofInt, if_neg hzero, F64.round_of_roundMag hround (F64.mul_unit_lt_limit hi)]
    · rw [F64.real, F64.signedMag_natAbs_mul, Int.cast_mul, Int.cast_natCast, F64.cast_unit,
        mul_div_cancel_right₀ _ F64.two_pow_pos.ne']

theorem F64.real_false (mag : Nat) : F64.real false mag = (mag : ℚ) / F64.unit := by
  rw [F64.real, F64.cast_unit]
  rfl

/-- The floor of a value that is not negative is the quotient of the integers. -/
theorem F64.floor_real_false (mag : Nat) : ⌊F64.real false mag⌋ = ((mag / F64.unit : Nat) : Int) := by
  rw [F64.real_false, Int.natCast_div]
  exact Rat.floor_intCast_div_natCast mag F64.unit

theorem F64.toint_eq_clamp (neg : Bool) (mag : Nat) :
    ((F64.fin neg mag).toint : Int) = max 0 (min ⌊F64.real neg mag⌋ 65535) := by
  cases neg
  · rw [F64.floor_real_false, F64.toint, if_neg Bool.false_ne_true, Nat.cast_min]
    exact (max_eq_right (le_min (Int.natCast_nonneg _) (by norm_num))).symm
  · have hfloor : ⌊F64.real true mag⌋ ≤ 0 := by
      rw [F64.real_true]
      exact Int.floor_nonpos (neg_nonpos.mpr (F64.real_false_nonneg mag))
    rw [F64.toint, if_pos rfl, max_eq_left ((min_le_left _ _).trans hfloor)]
    rfl

/-- The quotient with a half added first. -/
def F64.halfUp (mag : Nat) : Nat := (2 * mag + F64.unit) / (2 * F64.unit)

theorem F64.nearest_fin (neg : Bool) (mag : Nat) :
    (F64.fin neg mag).nearest = F64.signedMag neg (F64.halfUp mag) := rfl

theorem F64.signedMag_false (mag : Nat) : F64.signedMag false mag = mag := rfl

theorem F64.signedMag_true (mag : Nat) : F64.signedMag true mag = -(mag : Int) := rfl

/-- It exceeds the value by a half at most and falls short of it by less. -/
theorem F64.halfUp_bounds (mag : Nat) :
    (F64.halfUp mag : ℚ) - F64.real false mag ≤ 1 / 2 ∧ F64.real false mag - F64.halfUp mag < 1 / 2 := by
  have hpos : 0 < 2 * F64.unit := Nat.mul_pos two_pos F64.unit_pos
  have hle : F64.halfUp mag * (2 * F64.unit) ≤ 2 * mag + F64.unit := Nat.div_mul_le_self _ _
  have hlt : 2 * mag + F64.unit < (F64.halfUp mag + 1) * (2 * F64.unit) :=
    (Nat.div_lt_iff_lt_mul hpos).mp (Nat.lt_succ_self _)
  have hunit : (0 : ℚ) < F64.unit := Nat.cast_pos.mpr F64.unit_pos
  have hmag : (mag : ℚ) = F64.real false mag * F64.unit := by
    rw [F64.real_false, div_mul_cancel₀ _ hunit.ne']
  qify at hle hlt
  rw [hmag] at hle hlt
  generalize (F64.unit : ℚ) = u at hunit hle hlt
  constructor
  · refine le_of_mul_le_mul_right ?_ hunit
    linarith
  · refine lt_of_mul_lt_mul_right ?_ hunit.le
    linarith

/-- Both parts of R138's `round`: within a half, and on a tie the greater one, here of a value that is not
negative. -/
theorem F64.halfUp_spec (mag : Nat) :
    |(F64.halfUp mag : ℚ) - F64.real false mag| ≤ 1 / 2 ∧
    (|(F64.halfUp mag : ℚ) - F64.real false mag| = 1 / 2 →
      |F64.real false mag| < |(F64.halfUp mag : ℚ)|) := by
  obtain ⟨habove, hbelow⟩ := F64.halfUp_bounds mag
  refine ⟨abs_le.mpr ⟨by linarith, habove⟩, fun htie => ?_⟩
  rw [abs_of_nonneg (F64.real_false_nonneg mag), Nat.abs_cast]
  rcases (abs_eq (by norm_num)).mp htie with h | h
  · linarith
  · linarith

theorem F64.nearest_spec (neg : Bool) (mag : Nat) :
    |((F64.fin neg mag).nearest : ℚ) - F64.real neg mag| ≤ 1 / 2 ∧
    (|((F64.fin neg mag).nearest : ℚ) - F64.real neg mag| = 1 / 2 →
      |F64.real neg mag| < |((F64.fin neg mag).nearest : ℚ)|) := by
  cases neg
  · rw [F64.nearest_fin, F64.signedMag_false, Int.cast_natCast]
    exact F64.halfUp_spec mag
  · rw [F64.nearest_fin, F64.signedMag_true, F64.real_true, Int.cast_neg, Int.cast_natCast, neg_sub_neg, abs_sub_comm,
      abs_neg, abs_neg]
    exact F64.halfUp_spec mag

/-! ## The inside test and the depth test -/

theorem F64.ofBits_negInf : F64.ofBits 0xFFF0000000000000#64 = .inf true := by decide

/-- Settles O52. -/
theorem conversionsAndComparisons : Obligations.ConversionsAndComparisons := by
  refine ⟨fun i => F64.ofInt_exact, F64.isFinite_iff, F64.toint_eq_clamp, F64.nearest_spec, fun a b =>
    ⟨F64.lt_iff a b, F64.le_iff a b, (F64.lt_iff b a).trans exists_places_swap,
      (F64.le_iff b a).trans exists_places_swap, F64.eq_iff a b, F64.ne_iff a b⟩, rfl, ?_, fun z => ?_, fun b => ?_⟩
  · rintro u v hnan ⟨hu, hv, -⟩
    rcases hnan with rfl | rfl
    · exact absurd hu (by simp [F64.nan_ge])
    · exact absurd hv (by simp [F64.nan_ge])
  · rw [F64.ofBits_negInf]
    exact F64.gt_neg_inf z
  · exact F64.nan_gt _

end Sys2Proof.Machine
end

section
/-! The colour commands (41_color.md): the two conversions undo each other (R164), and PACK, UNPACK and FROM24
read the low bits of their operands and write R (R161 to R163). -/

namespace Sys2Proof.Machine

/-! ## pack and unpack -/

/-- Each channel is cut out of the word where `pack` put it: the channels below are shifted out one by one, and
the channels above are not read. -/
theorem unpack_pack (r g b a : Byte) : unpack (pack r g b a) = { r := r, g := g, b := b, a := a } := by
  have hr : (r ++ g ++ b ++ a).extractLsb' 24 8 = r := by
    rw [BitVec.extractLsb'_append_eq_of_le (by decide), BitVec.extractLsb'_append_eq_of_le (by decide)]
    exact BitVec.extractLsb'_append_eq_left
  have hg : (r ++ g ++ b ++ a).extractLsb' 16 8 = g := by
    rw [BitVec.extractLsb'_append_eq_of_le (by decide), BitVec.extractLsb'_append_eq_of_le (by decide)]
    exact BitVec.extractLsb'_append_eq_right
  have hb : (r ++ g ++ b ++ a).extractLsb' 8 8 = b := by
    rw [BitVec.extractLsb'_append_eq_of_le (by decide)]
    exact BitVec.extractLsb'_append_eq_right
  have ha : (r ++ g ++ b ++ a).extractLsb' 0 8 = a := BitVec.extractLsb'_append_eq_right
  rw [unpack, pack, hr, hg, hb, ha]

/-- Adjacent slices of a word join to the slice that covers them, and the whole slice is the word. -/
theorem pack_unpack (c : Word) : pack (unpack c).r (unpack c).g (unpack c).b (unpack c).a = c :=
  calc (c.extractLsb' 24 8 ++ c.extractLsb' 16 8 ++ c.extractLsb' 8 8 ++ c.extractLsb' 0 8 : Word)
    _ = c.extractLsb' 16 16 ++ c.extractLsb' 8 8 ++ c.extractLsb' 0 8 := by
      rw [BitVec.extractLsb'_append_extractLsb'_eq_extractLsb' (by decide : 24 = 16 + 8)]
    _ = c.extractLsb' 8 24 ++ c.extractLsb' 0 8 := by
      rw [BitVec.extractLsb'_append_extractLsb'_eq_extractLsb' (by decide : 16 = 8 + 8)]
    _ = c.extractLsb' 0 32 := BitVec.extractLsb'_append_extractLsb'_eq_extractLsb' rfl
    _ = c := BitVec.extractLsb'_eq_self

/-- Settles O14. -/
theorem packUnpackInverse : Obligations.PackUnpackInverse :=
  ⟨unpack_pack, pack_unpack⟩

/-! ## The operands and the results -/

theorem clearReport_eq_okFrom (s : State) : s.clearReport = s.okFrom := rfl

/-- The channels of a colour operand are the four low bytes of its register. -/
theorem unpack_argColor (s : State) (i : Fin 16) :
    unpack (s.argColor i) =
      { r := (s.areg i).extractLsb' 24 8, g := (s.areg i).extractLsb' 16 8, b := (s.areg i).extractLsb' 8 8,
        a := (s.areg i).extractLsb' 0 8 } := by
  have hslice : ∀ k, k + 8 ≤ 32 → (s.argColor i).extractLsb' k 8 = (s.areg i).extractLsb' k 8 :=
    fun _ hk => BitVec.extractLsb'_extractLsb'_of_le hk
  rw [unpack, hslice 24 (by decide), hslice 16 (by decide), hslice 8 (by decide), hslice 0 (by decide)]

/-- Four writes, one of each result register, leave nothing of what R held. -/
theorem setR_all (s : State) (v0 v1 v2 v3 : Dword) :
    (((s.setR 0 v0).setR 1 v1).setR 2 v2).setR 3 v3 = { s with r := #v[v0, v1, v2, v3] } := by
  have hr : (((s.r.set 0 v0).set 1 v1).set 2 v2).set 3 v3 = #v[v0, v1, v2, v3] := by
    refine Vector.ext fun i hi => ?_
    interval_cases i <;> simp
  exact congrArg (fun r => { s with r := r }) hr

/-! ## The three commands -/

theorem exec_pack (s : State) :
    exec .pack s = .next (s.okFrom.setR 0
      ((pack (s.argChannel 0) (s.argChannel 1) (s.argChannel 2) (s.argChannel 3)).setWidth 64)) := rfl

theorem exec_unpack (s : State) :
    exec .unpack s = .next { s.okFrom with
      r := #v[((s.areg 0).extractLsb' 24 8).setWidth 64, ((s.areg 0).extractLsb' 16 8).setWidth 64,
        ((s.areg 0).extractLsb' 8 8).setWidth 64, ((s.areg 0).extractLsb' 0 8).setWidth 64] } := by
  show execUnpack s = _
  rw [execUnpack, setR_all, unpack_argColor, clearReport_eq_okFrom]

theorem exec_from24 (s : State) :
    exec .from24 s = .next (s.okFrom.setR 0
      ((pack (s.argChannel 0) (s.argChannel 1) (s.argChannel 2) 255#8).setWidth 64)) := rfl

/-- Settles O13: the obligation writes out `pack`, `areg` and `argChannel`. -/
theorem colorCommandsResults : Obligations.ColorCommandsResults :=
  ⟨⟨by decide, by decide, by decide⟩, fun s => ⟨exec_pack s, exec_unpack s, exec_from24 s⟩⟩

end Sys2Proof.Machine
end

section
/-! The byte cursor (42_cursor.md): the laws of its primitives (R185), and the commands CRD, CPK, CSK and CAC
(R180 to R183). -/

namespace Sys2Proof.Machine

/-! ## The primitives (R172 to R178) -/

theorem cursorPeek_eq_ok {src : List Byte} {n o c : Nat} {b : List Byte} :
    cursorPeek src n o = .ok b c ↔ o + n ≤ src.length ∧ b = (src.drop o).take n ∧ c = o := by
  rcases le_or_gt (o + n) src.length with h | h
  · rw [cursorPeek_of_le h, Scan.ok.injEq, eq_comm (b := b), eq_comm (b := c)]
    exact (and_iff_right h).symm
  · rw [cursorPeek_of_lt h]
    exact iff_of_false nofun fun hle => absurd hle.1 h.not_ge

theorem coff_of_cursorPeek_err {src : List Byte} {n o c : Nat} {r : Report}
    (h : cursorPeek src n o = .err r c) : c = o :=
  (congrArg Scan.coff h).symm.trans (cursorPeek_coff src n o)

theorem cursorSeek_of_le {src : List Byte} {pos o : Nat} (h : pos ≤ src.length) :
    cursorSeek src pos o = .ok () pos := if_neg h.not_gt

theorem cursorSeek_of_lt {src : List Byte} {pos o : Nat} (h : src.length < pos) :
    cursorSeek src pos o = .err ⟨.outOfBounds, BitVec.ofNat 64 pos, BitVec.ofNat 64 src.length,
      BitVec.ofNat 64 o⟩ o := if_pos h

theorem coff_of_cursorSeek_err {src : List Byte} {pos o c : Nat} {r : Report}
    (h : cursorSeek src pos o = .err r c) : c = o := by
  rcases le_or_gt pos src.length with hle | hlt
  · cases (cursorSeek_of_le hle).symm.trans h
  · cases (cursorSeek_of_lt hlt).symm.trans h
    rfl

section
variable {src e : List Byte} {o : Nat}

/-- Strings of one length are compared as numbers. -/
theorem take_drop_eq_iff (h : o + e.length ≤ src.length) :
    (src.drop o).take e.length = e ↔ leValue src o e.length = leNat e := by
  have hlen : ((src.drop o).take e.length).length = e.length := length_of_cursorRead (cursorRead_of_le h)
  rw [← leNat_take_drop src o e.length h]
  exact ⟨congrArg leNat, leNat_inj hlen⟩

theorem cursorAccept_of_eq (h : o + e.length ≤ src.length) (heq : leValue src o e.length = leNat e) :
    cursorAccept src e o = .ok () (o + e.length) :=
  cursorAccept_eq_ok.2 ⟨h, (take_drop_eq_iff h).2 heq, rfl⟩

theorem cursorAccept_of_ne (h : o + e.length ≤ src.length) (hne : leValue src o e.length ≠ leNat e) :
    cursorAccept src e o = .err ⟨.unexpectedValue, BitVec.ofNat 64 (leNat e),
      BitVec.ofNat 64 (leValue src o e.length), BitVec.ofNat 64 o⟩ o := by
  rw [cursorAccept, cursorRead_of_le h, Scan.bind_ok, if_neg (mt (take_drop_eq_iff h).1 hne), regbytes_leNat,
    regbytes_leNat, leNat_take_drop src o e.length h]

theorem cursorAccept_of_lt (h : src.length < o + e.length) :
    cursorAccept src e o = .err (outOfBounds src e.length o) o := by
  rw [cursorAccept, cursorRead_of_lt h, Scan.bind_err]

end

/-- Settles O19: what the primitives answer when they succeed and where they leave COFF when they fail; (e) holds
of every instruction. -/
theorem cursorLaws : Obligations.CursorLaws := by
  refine ⟨fun src n o b => ?_, fun src n o c b h => ?_, fun src e n pos o c r => ?_, fun src e o => ?_,
    fun s t n i _ h => (exec_leaves h).src⟩
  · simp [cursorPeek_eq_ok, cursorRead_eq_ok]
  · exact (cursorRead_eq_ok.1 h).2.2
  · exact ⟨fun h => (cursorRead_eq_err.1 h).2.2, coff_of_cursorPeek_err, coff_of_cursorSeek_err,
      coff_of_cursorAccept_err⟩
  · simp [cursorAccept_eq_ok, cursorPeek_eq_ok, eq_comm]

/-! ## The word of a command with a count -/

/-- The count of a command word stands in its bits 19:16 (R100). -/
theorem cmdWordOf_count (op : Byte) (n : BitVec 4) :
    cmdWordOf op false false false false n = op.setWidth 32 ||| n.setWidth 32 <<< 16 := by
  refine BitVec.eq_of_getLsbD_eq fun i hi => ?_
  rw [getLsbD_eq_field _ hi, cmdFields_cmdWordOf]
  simp only [BitVec.getLsbD_or, BitVec.getLsbD_setWidth, BitVec.getLsbD_shiftLeft, BitVec.getLsbD_zero]
  grind

theorem decodeCmd_count_error {op : Byte} {mk : BitVec 4 → Instr}
    (hop : operandsOf op.toNat = some (.count mk)) {n : BitVec 4} (hn : 8 < n.toNat) :
    ∃ r, decodeCmd (cmdWordOf op false false false false n) = .error r := by
  cases h : decodeCmd (cmdWordOf op false false false false n) with
  | error r => exact ⟨r, rfl⟩
  | ok i =>
    obtain ⟨o, ho, hallow, -⟩ := decodeCmd_eq_ok.1 h
    rw [cmdFields_cmdWordOf] at ho hallow
    obtain rfl : Operands.count mk = o := Option.some.inj (hop.symm.trans ho)
    obtain ⟨-, -, -, -, -, -, -, hcount, -⟩ := hallow
    exact absurd (BitVec.le_def.1 (hcount rfl)) hn.not_ge

/-- The encoder's word for a count, and R104's limit on it. -/
theorem countCommand_word {op : Byte} {mk : BitVec 4 → Instr} (hop : operandsOf op.toNat = some (.count mk))
    (n : BitVec 4) :
    encode (mk n) = .cmd32 (op.setWidth 32 ||| n.setWidth 32 <<< 16) ∧
      (8 < n.toNat → ∃ r, decode (.cmd32 (op.setWidth 32 ||| n.setWidth 32 <<< 16)) = .error r) := by
  rw [← cmdWordOf_count]
  exact ⟨(operandsOf_encodes hop n).2, decodeCmd_count_error hop⟩

/-! ## The commands -/

/-- A cursor command that fails where COFF stands leaves the report and nothing else. -/
theorem scanFailed_clearReport (s : State) (e : Report) :
    s.clearReport.scanFailed e s.coff = s.errFrom e.kind.code e.info0 e.info1 e.off := rfl

theorem exec_crd (n : BitVec 4) (s : State) :
    exec (.crd n) s = .next (cursorBytes n (cursorRead s.src n.toNat s.coff) s.clearReport) := rfl

theorem exec_cpk (n : BitVec 4) (s : State) :
    exec (.cpk n) s = .next (cursorBytes n (cursorPeek s.src n.toNat s.coff) s.clearReport) := rfl

theorem exec_csk (s : State) :
    exec .csk s = .next (cursorMove (cursorSeek s.src s.a[0].toNat s.coff) s.clearReport) := rfl

theorem exec_cac (n : BitVec 4) (s : State) :
    exec (.cac n) s = .next (cursorMove (cursorAccept s.src (bytesOfReg s.a[0] n.toNat) s.coff) s.clearReport) := rfl

/-- The report of a count that is more than the bytes left (R172). -/
theorem scanFailed_outOfBounds (s : State) (n : BitVec 4) :
    s.clearReport.scanFailed (outOfBounds s.src n.toNat s.coff) s.coff =
      s.errFrom 1#8 (n.setWidth 64) (BitVec.ofNat 64 (s.src.length - s.coff)) (BitVec.ofNat 64 s.coff) := by
  rw [scanFailed_clearReport, ← BitVec.ofNat_toNat]
  rfl

theorem getD_take_drop (src : List Byte) (n o k : Nat) :
    ((src.drop o).take n).getD k 0#8 = if k < n then src.getD (o + k) 0#8 else 0#8 := by
  simp only [List.getD_eq_getElem?_getD, List.getElem?_take, List.getElem?_drop]
  split <;> rfl

/-- CRD and CPK put the same `n` bytes of `SRC` into R[0] and R[1]; they differ in the COFF they leave, `c`. -/
theorem cursorBytes_take_drop (n : BitVec 4) (s : State) (c : Nat) : ∃ v : Dword,
    Host.Outcome.next (φ := Fault) (ρ := Refusal)
      (cursorBytes n (.ok ((s.src.drop s.coff).take n.toNat) c) s.clearReport) =
        .next { s.okFrom with coff := c, r := (s.r.set 0 v).set 1 (n.setWidth 64) } ∧
    ∀ k < 8, v.extractLsb' (8 * k) 8 = if k < n.toNat then s.src.getD (s.coff + k) 0#8 else 0#8 :=
  ⟨_, rfl, fun _ hk => (extract_regbytes _ hk).trans (getD_take_drop _ _ _ _)⟩

/-- Settles O15. -/
theorem crdReadsBytes : Obligations.CrdReadsBytes := by
  refine ⟨countCommand_word (op := 0x10#8) (mk := .crd) rfl, fun n s _ hcoff =>
    ⟨fun henough => ?_, fun hfew => ?_⟩⟩
  · rw [exec_crd, cursorRead_of_le (by omega)]
    exact cursorBytes_take_drop n s (s.coff + n.toNat)
  · rw [exec_crd, cursorRead_of_lt (by omega), cursorBytes, scanFailed_outOfBounds]

/-- Settles O16. -/
theorem cpkPeeksBytes : Obligations.CpkPeeksBytes := by
  refine ⟨countCommand_word (op := 0x11#8) (mk := .cpk) rfl, fun n s _ hcoff =>
    ⟨fun henough => ?_, fun hfew => ?_⟩⟩
  · rw [exec_cpk, cursorPeek_of_le (by omega)]
    exact cursorBytes_take_drop n s s.coff
  · rw [exec_cpk, cursorPeek_of_lt (by omega), cursorBytes, scanFailed_outOfBounds]

/-- Settles O17. -/
theorem cskSeeks : Obligations.CskSeeks := by
  refine ⟨by decide, fun s => ⟨fun hle => ?_, fun hlt => ?_⟩⟩
  · rw [exec_csk, cursorSeek_of_le hle]
    rfl
  · rw [exec_csk, cursorSeek_of_lt hlt, cursorMove, scanFailed_clearReport, BitVec.ofNat_toNat, BitVec.setWidth_eq]
    rfl

/-- Settles O18: the bytes are compared and reported as the numbers `leNat` of the expected and `leValue` of the
actual ones. -/
theorem cacAccepts : Obligations.CacAccepts := by
  refine ⟨fun n => (countCommand_word (op := 0x13#8) (mk := .cac) rfl n).1, fun n s _ hcoff => ?_⟩
  have hlen : (bytesOfReg s.a[0] n.toNat).length = n.toNat := length_bytesOfReg _ _
  dsimp only
  rw [exec_cac, ← leNat_bytesOfReg]
  generalize bytesOfReg s.a[0] n.toNat = e at hlen
  rw [← hlen]
  refine ⟨fun henough heq => ?_, fun henough hne => ?_, fun hfew => ?_⟩
  · rw [cursorAccept_of_eq (by omega) heq]
    rfl
  · rw [cursorAccept_of_ne (by omega) hne]
    rfl
  · rw [cursorAccept_of_lt (by omega), hlen, cursorMove, scanFailed_outOfBounds]

end Sys2Proof.Machine
end

section
/-! Creating an image and accessing its pixels (43_codec.md R191 to R194). -/

namespace Sys2Proof.Machine

/-! ## The word of a command with a slot -/

/-- The slot of a command word stands in its bit 8 (R100). -/
theorem cmdWordOf_slot (op : Byte) (k : Slot) :
    cmdWordOf op k.bit false false false 0#4 = (slotWord op.toNat k).setWidth 32 := by
  have hlt := op.isLt
  have happend (x : BitVec 24) : (x ++ op : Word).toNat = x.toNat <<< 8 + op.toNat :=
    (BitVec.toNat_append x op).trans (Nat.shiftLeft_add_eq_or_of_lt hlt _).symm
  refine BitVec.eq_of_toNat_eq ?_
  cases k with
  | s0 => simp [cmdWordOf, slotWord, slotNum, Slot.bit, happend]; omega
  | s1 => simp [cmdWordOf, slotWord, slotNum, Slot.bit, happend]; omega

section
variable {op : Byte} {mk : Slot → Instr} (hop : operandsOf op.toNat = some (.slot mk))
include hop

theorem slotCommand_word (k : Slot) : encode (mk k) = .cmd32 ((slotWord op.toNat k).setWidth 32) :=
  cmdWordOf_slot op k ▸ (operandsOf_encodes hop k).2

/-- The word as a report's EINFO0 shows it (60_exceptions.md R291). -/
theorem slotCommand_info (k : Slot) : (cmdWord (mk k)).setWidth 64 = slotWord op.toNat k := by
  have hslot : slotNum k < 2 := by cases k <;> decide
  have hlt := op.isLt
  refine BitVec.eq_of_toNat_eq ?_
  simp only [cmdWord, slotCommand_word hop, slotWord, BitVec.toNat_setWidth, BitVec.toNat_ofNat]
  omega

/-- A failed precondition of a slot command is its only effect. -/
theorem slotCommand_raiseIllegal (k : Slot) (s : State) (x : IllegalReason) :
    s.clearReport.raiseIllegal (cmdWord (mk k)) x =
      s.errFrom 7#8 (slotWord op.toNat k) x.code (BitVec.ofNat 64 s.coff) := by
  rw [← slotCommand_info hop]
  rfl

end

/-! ## INEW (R191) -/

theorem ofNat_toNat_eq_extract (v : Dword) : BitVec.ofNat 16 v.toNat = v.extractLsb' 0 16 :=
  BitVec.eq_of_toNat_eq (by simp)

theorem exec_inew_of_dimensions {k : Slot} {s : State} (hw : dimensionOk s.a[0].toNat = true)
    (hh : dimensionOk s.a[1].toNat = true) :
    exec (.inew k) s = .next (s.okFrom.setImg k
      { valid := true, hdr := newHeader (s.a[0].extractLsb' 0 16) (s.a[1].extractLsb' 0 16),
        pix := Memory.empty }) := by
  rw [← ofNat_toNat_eq_extract, ← ofNat_toNat_eq_extract]
  exact if_pos (Bool.and_eq_true_iff.2 ⟨hw, hh⟩)

theorem exec_inew_of_not_dimensions {k : Slot} {s : State}
    (h : ¬ (dimensionOk s.a[0].toNat = true ∧ dimensionOk s.a[1].toNat = true)) :
    exec (.inew k) s = .next (s.clearReport.raiseIllegal (cmdWord (.inew k)) .dimension) :=
  if_neg (mt Bool.and_eq_true_iff.1 h)

/-- Settles O20: the new pixel memory lists no element. -/
theorem inewCreatesBlackImage : Obligations.InewCreatesBlackImage := by
  refine ⟨slotCommand_word (op := 0x20#8) rfl, fun k s => ⟨fun ⟨hw, hw', hh, hh'⟩ => ?_, fun hbad => ?_⟩⟩
  · exact ⟨Memory.empty, fun _ => rfl,
      exec_inew_of_dimensions (dimensionOk_iff.2 ⟨hw, hw'⟩) (dimensionOk_iff.2 ⟨hh, hh'⟩)⟩
  · rw [exec_inew_of_not_dimensions (by simpa only [dimensionOk_iff, and_assoc] using hbad),
      slotCommand_raiseIllegal (op := 0x20#8) rfl]
    rfl

/-! ## IGET and ISET (R192, R193) -/

section
variable {k : Slot} {s : State}

theorem inImage_iff {x y : Nat} :
    s.inImage k x y = true ↔ x < (s.img k).hdr.width.toNat ∧ y < (s.img k).hdr.height.toNat := by
  rw [State.inImage, Bool.and_eq_true_iff, decide_eq_true_iff, decide_eq_true_iff]
  rfl

/-- The linear index of the position that the operands of IGET and ISET name. -/
def State.pixelIndex (s : State) (k : Slot) : Nat := linearIndex (s.imgW k) s.a[0].toNat s.a[1].toNat

section
variable (hv : (s.img k).valid = true)
include hv

section
variable (hx : s.a[0].toNat < (s.img k).hdr.width.toNat) (hy : s.a[1].toNat < (s.img k).hdr.height.toNat)
include hx hy

theorem exec_iget_inside :
    exec (.iget k) s = .next (s.okFrom.setR 0 (((s.img k).pix.read (s.pixelIndex k)).setWidth 64)) :=
  (if_pos hv).trans (if_pos (inImage_iff.2 ⟨hx, hy⟩))

theorem exec_iset_inside :
    exec (.iset k) s = .next (s.clearReport.setPix k
      ((s.img k).pix.write (s.pixelIndex k) (s.a[2].extractLsb' 0 32))) :=
  (if_pos hv).trans (if_pos (inImage_iff.2 ⟨hx, hy⟩))

end

section
variable (hout : ¬ (s.a[0].toNat < (s.img k).hdr.width.toNat ∧ s.a[1].toNat < (s.img k).hdr.height.toNat))
include hout

theorem exec_iget_outside :
    exec (.iget k) s = .next (s.errFrom 4#8 s.a[0] s.a[1] (BitVec.ofNat 64 s.coff)) :=
  (if_pos hv).trans (if_neg (mt inImage_iff.1 hout))

theorem exec_iset_outside :
    exec (.iset k) s = .next (s.errFrom 4#8 s.a[0] s.a[1] (BitVec.ofNat 64 s.coff)) :=
  (if_pos hv).trans (if_neg (mt inImage_iff.1 hout))

end

end

theorem exec_iget_invalid (hv : (s.img k).valid = false) :
    exec (.iget k) s = .next (s.errFrom 7#8 (slotWord 0x21 k) 1#64 (BitVec.ofNat 64 s.coff)) :=
  (if_neg (Bool.eq_false_iff.1 hv)).trans
    (congrArg Host.Outcome.next (slotCommand_raiseIllegal (op := 0x21#8) rfl k s .slot))

theorem exec_iset_invalid (hv : (s.img k).valid = false) :
    exec (.iset k) s = .next (s.errFrom 7#8 (slotWord 0x22 k) 1#64 (BitVec.ofNat 64 s.coff)) :=
  (if_neg (Bool.eq_false_iff.1 hv)).trans
    (congrArg Host.Outcome.next (slotCommand_raiseIllegal (op := 0x22#8) rfl k s .slot))

end

/-- Settles O21. -/
theorem igetReadsPixel : Obligations.IgetReadsPixel :=
  ⟨slotCommand_word (op := 0x21#8) rfl, fun _ _ => ⟨exec_iget_invalid, exec_iget_outside, exec_iget_inside⟩⟩

/-- Settles O22: `Memory.write` at the linear index. -/
theorem isetWritesOnePixel : Obligations.IsetWritesOnePixel :=
  ⟨slotCommand_word (op := 0x22#8) rfl, fun _ _ => ⟨exec_iset_invalid, exec_iset_outside,
    fun hv hwf hx hy => ⟨_, exec_iset_inside hv hx hy, Memory.write_spec hwf _ _⟩⟩⟩

/-! ## IGET after ISET (R194) -/

@[simp] theorem img_with_a (s : State) (a : Vector Dword 16) (k : Slot) :
    ({ s with a := a } : State).img k = s.img k := by cases k <;> rfl

/-- What IGET of the position (`x`, `y`) gives. -/
theorem iget_result {k : Slot} {s t : State} {x y : Dword} (hv : (s.img k).valid = true)
    (hx : x.toNat < (s.img k).hdr.width.toNat) (hy : y.toNat < (s.img k).hdr.height.toNat)
    (h : exec (.iget k) { s with a := (s.a.set 0 x).set 1 y } = .next t) :
    t.r[0] = ((s.img k).pix.read (linearIndex (s.imgW k) x.toNat y.toNat)).setWidth 64 := by
  rw [exec_iget_inside (by simpa using hv) (by simpa using hx) (by simpa using hy)] at h
  cases h
  simp [State.pixelIndex, State.imgW]

theorem linearIndex_eq_iff {w : Nat} {x y x' y' : Dword} (hx : x.toNat < w) (hx' : x'.toNat < w) :
    linearIndex w x.toNat y.toNat = linearIndex w x'.toNat y'.toNat ↔ x = x' ∧ y = y' := by
  refine ⟨fun h => ?_, fun ⟨ex, ey⟩ => by rw [ex, ey]⟩
  obtain ⟨ex, ey⟩ := linearIndex_inj hx hx' h
  exact ⟨BitVec.eq_of_toNat_eq ex, BitVec.eq_of_toNat_eq ey⟩

/-- Settles O23: different positions have different linear indices. -/
theorem getAfterSet : Obligations.GetAfterSet := by
  intro k s t u v x y hv hwf hsx hsy hx hy hset hget hget'
  rw [exec_iset_inside hv hsx hsy] at hset
  cases hset
  rw [iget_result hv hx hy hget',
    iget_result (by simpa using hv) (by simpa using hx) (by simpa using hy) hget]
  have hread (i : Nat) (v : Word) := (Memory.write_spec hwf i v).2
  simp only [State.setPix_img_self, State.clearReport_img, State.imgW, State.pixelIndex, hread,
    linearIndex_eq_iff hx hsx]
  exact apply_ite _ _ _ _

end Sys2Proof.Machine
end

section
/-! The header parser against the table of its failures (43_codec.md R195, R199): every field that is read and
checked answers as its row of the table says, and so does their sequence. -/

namespace Sys2Proof.Machine

/-! ## What a failure in the table means -/

/-- The report and the cursor of a raise are those of a row of the table (R199). -/
def FieldFailure.Reports (f : FieldFailure) (e : Report) (c : Nat) : Prop :=
  e.kind.code = f.code ∧ e.info0 = f.info0 ∧ e.info1 = f.info1 ∧ e.off = f.off ∧ c = f.coff

theorem FieldFailure.Reports.scanFailed {f : FieldFailure} {e : Report} {c : Nat} (h : f.Reports e c) (s : State) :
    s.clearReport.scanFailed e c = { s.errFrom f.code f.info0 f.info1 f.off with coff := f.coff } := by
  obtain ⟨hcode, h0, h1, hoff, rfl⟩ := h
  rw [← hcode, ← h0, ← h1, ← hoff]
  rfl

/-- A procedure answers `a` with the cursor at `c` where there is no failure, and reports the failure where
there is one. -/
def Scan.Follows {α : Type} (x : Scan α) (failure : Option FieldFailure) (a : α) (c : Nat) : Prop :=
  match failure with
  | none => x = .ok a c
  | some f => ∃ e c', x = .err e c' ∧ f.Reports e c'

/-- In a sequence the first failure counts. -/
theorem Scan.Follows.bind {α β : Type} {x : Scan α} {g : α → Nat → Scan β} {src : List Byte} {o : Nat}
    {field : HeaderField} {rest : List HeaderField} {a : α} {b : β} {c d : Nat}
    (hx : x.Follows (field.failure src o) a c)
    (hg : (g a c).Follows (rest.findSome? fun f => f.failure src o) b d) :
    (x.bind g).Follows ((field :: rest).findSome? fun f => f.failure src o) b d := by
  rw [List.findSome?_cons]
  cases hf : field.failure src o with
  | none =>
    rw [hf] at hx
    obtain rfl : x = .ok a c := hx
    exact hg
  | some f =>
    rw [hf] at hx
    obtain ⟨e, c', rfl, hr⟩ := hx
    exact ⟨e, c', rfl, hr⟩

/-- A field that is read and then checked is one step of the sequence. -/
theorem Scan.bind_check {α β : Type} (x : Scan α) (p : α → Prop) [DecidablePred p] (e : α → Report)
    (g : α → Nat → Scan β) :
    (x.bind fun a c => if p a then .err (e a) c else g a c) =
      (x.bind fun a c => if p a then .err (e a) c else .ok a c).bind g := by
  cases x with
  | ok a c => by_cases h : p a <;> simp [h]
  | err r c => rfl

/-! ## The fields -/

section
variable {α : Type} {src : List Byte} {x : Scan α} {a : α} {c : Nat}

/-- A field whose bytes are not all there fails as a read does; of a field that is there the check decides. -/
theorem Scan.Follows.of_read {q n : Nat} {rejection : Option FieldFailure}
    (hlt : src.length < q + n → x = .err (outOfBounds src n q) q)
    (hle : q + n ≤ src.length → x.Follows rejection a c) :
    x.Follows (if src.length < q + n then
        some ⟨1#8, BitVec.ofNat 64 n, BitVec.ofNat 64 (src.length - q), BitVec.ofNat 64 q, q⟩
      else rejection) a c := by
  split
  · next h => exact ⟨_, _, hlt h, rfl, rfl, rfl, rfl, rfl⟩
  · next h => exact hle (Nat.le_of_not_lt h)

theorem Scan.Follows.of_check {P : Prop} [Decidable P] {f : FieldFailure} (hpass : P → x = .ok a c)
    (hfail : ¬ P → x.Follows (some f) a c) : x.Follows (if P then none else some f) a c := by
  split
  · next h => exact hpass h
  · next h => exact hfail h

end

section
variable (src : List Byte) (o p : Nat)

theorem leNat_zeros (n : Nat) : leNat (List.replicate n 0#8) = 0 := by
  induction n with
  | zero => rfl
  | succ n ih => simp [List.replicate_succ, leNat, ih]

theorem accept_zeros_follows (n : Nat) :
    (cursorAccept src (List.replicate n 0#8) (o + p)).Follows ((⟨p, n, .zero⟩ : HeaderField).failure src o) ()
      (o + p + n) := by
  have hlen : (List.replicate n 0#8).length = n := List.length_replicate
  have hzero := leNat_zeros n
  generalize List.replicate n 0#8 = zeros at hlen hzero
  subst hlen
  refine .of_read cursorAccept_of_lt fun hle => .of_check (fun hv => ?_) fun hv => ?_
  · exact cursorAccept_of_eq hle (hv.trans hzero.symm)
  · exact ⟨_, _, cursorAccept_of_ne hle (by rwa [hzero]), rfl, by rw [hzero], rfl, rfl, rfl⟩

/-- The value of a byte field. -/
theorem leValue_one (q : Nat) : leValue src q 1 = (src.getD q 0#8).toNat := rfl

/-- The value of a two-byte field (20_memory.md R65). -/
theorem leValue_two (q : Nat) : leValue src q 2 = (src.getD (q + 1) 0#8 ++ src.getD q 0#8).toNat := by
  have hlow := (src.getD q 0#8).isLt
  rw [BitVec.toNat_append, ← Nat.shiftLeft_add_eq_or_of_lt hlow, Nat.shiftLeft_eq]
  simp only [leValue]
  omega

theorem cursorU8_of_lt {q : Nat} (h : src.length < q + 1) : cursorU8 src q = .err (outOfBounds src 1 q) q :=
  cursorU8_eq_err.2 ⟨by omega, rfl, rfl⟩

theorem cursorU8_of_le {q : Nat} (h : q + 1 ≤ src.length) : cursorU8 src q = .ok (src.getD q 0#8) (q + 1) :=
  cursorU8_eq_ok.2 ⟨h, rfl, rfl⟩

theorem cursorU16_of_lt {q : Nat} (h : src.length < q + 2) : cursorU16 src q = .err (outOfBounds src 2 q) q := by
  rw [cursorU16, cursorRead_of_lt h, Scan.bind_err]

theorem cursorU16_of_le {q : Nat} (h : q + 2 ≤ src.length) :
    cursorU16 src q = .ok (src.getD (q + 1) 0#8 ++ src.getD q 0#8) (q + 2) :=
  cursorU16_eq_ok.2 ⟨h, rfl, rfl⟩

theorem u8_follows :
    (cursorU8 src (o + p)).Follows ((⟨p, 1, .any⟩ : HeaderField).failure src o) (src.getD (o + p) 0#8)
      (o + p + 1) :=
  .of_read (cursorU8_of_lt src) (cursorU8_of_le src)

theorem u16_follows :
    (cursorU16 src (o + p)).Follows ((⟨p, 2, .any⟩ : HeaderField).failure src o)
      (src.getD (o + p + 1) 0#8 ++ src.getD (o + p) 0#8) (o + p + 2) :=
  .of_read (cursorU16_of_lt src) (cursorU16_of_le src)

theorem u8_oneOf_follows (v w : Byte) :
    ((cursorU8 src (o + p)).bind fun b c =>
        if b ≠ v ∧ b ≠ w then .err (unsupported p (b.setWidth 64) (o + p)) c else .ok b c).Follows
      ((⟨p, 1, .oneOf v.toNat w.toNat⟩ : HeaderField).failure src o) (src.getD (o + p) 0#8) (o + p + 1) := by
  refine .of_read (fun h => by rw [cursorU8_of_lt src h, Scan.bind_err]) fun hle => ?_
  rw [cursorU8_of_le src hle, Scan.bind_ok, leValue_one]
  generalize src.getD (o + p) 0#8 = b
  have hbad : b ≠ v ∧ b ≠ w ↔ ¬ (b.toNat = v.toNat ∨ b.toNat = w.toNat) := by
    rw [← not_or, BitVec.toNat_inj, BitVec.toNat_inj]
  refine .of_check (fun hv => if_neg (not_not.2 hv ∘ hbad.1)) fun hv => ?_
  exact ⟨_, _, if_pos (hbad.2 hv), rfl, rfl, (BitVec.ofNat_toNat 64 b).symm, rfl, rfl⟩

theorem u16_nonZero_follows :
    ((cursorU16 src (o + p)).bind fun v c =>
        if v = 0#16 then .err (unsupported p 0#64 (o + p)) c else .ok v c).Follows
      ((⟨p, 2, .nonZero⟩ : HeaderField).failure src o) (src.getD (o + p + 1) 0#8 ++ src.getD (o + p) 0#8)
      (o + p + 2) := by
  refine .of_read (fun h => by rw [cursorU16_of_lt src h, Scan.bind_err]) fun hle => ?_
  rw [cursorU16_of_le src hle, Scan.bind_ok, leValue_two]
  refine .of_check (fun hv => if_neg (BitVec.toNat_ne.2 hv)) fun hv => ?_
  exact ⟨_, _, if_pos (BitVec.eq_of_toNat_eq (not_not.1 hv)), rfl, rfl, rfl, rfl, rfl⟩

/-- The header parser and the table of R199: it answers the header at `o` exactly if no field fails, and
reports the first field that does. -/
theorem parseHeader_follows :
    (parseHeader src o).Follows (headerFailure src o) (headerAt src o) (o + 18) := by
  unfold parseHeader headerFailure headerFields
  refine (accept_zeros_follows src o 0 1).bind ?_
  refine (accept_zeros_follows src o 1 1).bind ?_
  rw [Scan.bind_check]
  refine (u8_oneOf_follows src o 2 2#8 10#8).bind ?_
  refine (accept_zeros_follows src o 3 5).bind ?_
  refine (u16_follows src o 8).bind ?_
  refine (u16_follows src o 10).bind ?_
  rw [Scan.bind_check]
  refine (u16_nonZero_follows src o 12).bind ?_
  rw [Scan.bind_check]
  refine (u16_nonZero_follows src o 14).bind ?_
  rw [Scan.bind_check]
  refine (u8_oneOf_follows src o 16 24#8 32#8).bind ?_
  refine (u8_follows src o 17).bind ?_
  rfl

end

theorem parseHeader_of_failure_none {src : List Byte} {o : Nat} (h : headerFailure src o = none) :
    parseHeader src o = .ok (headerAt src o) (o + 18) := by
  have hf := parseHeader_follows src o
  rwa [h] at hf

theorem parseHeader_of_failure {src : List Byte} {o : Nat} {f : FieldFailure} (h : headerFailure src o = some f) :
    ∃ e c, parseHeader src o = .err e c ∧ f.Reports e c := by
  have hf := parseHeader_follows src o
  rwa [h] at hf

/-- A header without a failure has its 18 bytes, and legal values in them. -/
theorem header_of_failure_none {src : List Byte} {o : Nat} (h : headerFailure src o = none) :
    o + 18 ≤ src.length ∧ (headerAt src o).legal := by
  obtain ⟨hlen, -, hlegal, -⟩ := parseHeader_ok (parseHeader_of_failure_none h)
  exact ⟨hlen, hlegal⟩

/-! ## IHDR and IDEC over a header -/

section
variable {s : State}

theorem exec_ihdr_ok (h : headerFailure s.src s.coff = none) :
    exec .ihdr s = .next { s.okFrom with
      coff := s.coff + 18, hs := { valid := true, hdr := headerAt s.src s.coff } } := by
  show execIhdr s = _
  rw [execIhdr, parseHeader_of_failure_none h]
  rfl

theorem exec_ihdr_failed {f : FieldFailure} (h : headerFailure s.src s.coff = some f) :
    exec .ihdr s = .next { s.errFrom f.code f.info0 f.info1 f.off with coff := f.coff } := by
  obtain ⟨e, c, hp, hr⟩ := parseHeader_of_failure h
  show execIhdr s = _
  rw [execIhdr, hp, ← hr.scanFailed]

theorem State.setDec_none (h : s.dec = none) : s.setDec none = s := h ▸ rfl

/-- A decode that has not begun is over. -/
theorem exec_idec_of_dec_none {k : Slot} {t : State} (h : idecBegin k s = t) (ht : t.dec = none) :
    exec (.idec k) s = .next t := by
  show Host.Outcome.next (idecFinish (idecBegin k s)) = _
  rw [h, idecFinish, ht]

theorem exec_idec_failed {f : FieldFailure} (k : Slot) (h : headerFailure s.src s.coff = some f)
    (hs : s.dec = none) :
    exec (.idec k) s = .next { s.errFrom f.code f.info0 f.info1 f.off with coff := f.coff } := by
  obtain ⟨e, c, hp, hr⟩ := parseHeader_of_failure h
  refine exec_idec_of_dec_none ?_ hs
  rcases idecBegin_cases k s with ⟨e', c', hp', eq⟩ | ⟨hdr, c', hp', -⟩
  · cases hp.symm.trans hp'
    rw [eq, State.setDec_none (s := s.clearReport) hs, hr.scanFailed]
  · cases hp.symm.trans hp'

end

/-- Settles O24. -/
theorem ihdrStagesHeader : Obligations.IhdrStagesHeader :=
  ⟨by decide, fun _ => ⟨exec_ihdr_ok, fun _ => exec_ihdr_failed⟩⟩

/-- Settles O25. -/
theorem headerErrorsFollowTable : Obligations.HeaderErrorsFollowTable :=
  fun _ _ k h => ⟨exec_ihdr_failed h, exec_idec_failed k h⟩

end Sys2Proof.Machine
end

section
/-! Pixel streams (43_codec.md R201 to R210): the uncompressed stream, the packets of a run-length decode, and
IDEC of a file of either kind. -/

namespace Sys2Proof.Machine

/-! ## Pixels (R201, R202) -/

theorem Header.legal.bytesPerPixel {h : Header} (hl : h.legal) : h.bytesPerPixel = 3 ∨ h.bytesPerPixel = 4 := by
  obtain ⟨-, -, -, -, -, -, hb | hb⟩ := hl
  · exact .inl (by rw [Header.bytesPerPixel, hb]; rfl)
  · exact .inr (by rw [Header.bytesPerPixel, hb]; rfl)

section
variable {src : List Byte} {k : Nat} (hk : k = 3 ∨ k = 4)
include hk

/-- The pixel made of `k` bytes that are there is the one Safety reads at their offset. -/
theorem pixelFromBytes_eq_pixelAt {o : Nat} (h : o + k ≤ src.length) :
    pixelFromBytes ((src.drop o).take k) = pixelAt src o k := by
  unfold pixelFromBytes pixelAt
  simp only [getD_take_drop]
  rcases hk with rfl | rfl
  · have h3 : ((src.drop o).take 3).getD 3 255#8 = 255#8 := List.getD_eq_default _ _ (List.length_take_le _ _)
    rw [h3]
    rfl
  · have h3 : ((src.drop o).take 4).getD 3 255#8 = src.getD (o + 3) 0#8 := by
      have hlt : o + 3 < src.length := by omega
      simp [List.getD_eq_getElem?_getD, hlt]
    rw [h3]
    rfl

omit hk in
/-- Pixel `i` of a stream of `n` pixels ends inside it. -/
theorem mul_add_le_of_lt {i n : Nat} (hi : i < n) : i * k + k ≤ n * k :=
  Nat.succ_mul i k ▸ Nat.mul_le_mul_right k hi

/-- A RAW packet whose bytes are all there. -/
theorem rawPacket_eq {cnt o : Nat} (h : o + cnt * k ≤ src.length) :
    rawPacket src k cnt o = .ok ((List.range cnt).map fun j => pixelAt src (o + j * k) k) (o + cnt * k) := by
  obtain ⟨ps, hps⟩ := rawPacket_of_le h
  obtain ⟨hlen, -, hget⟩ := rawPacket_ok hps
  rw [hps]
  refine congrArg (Scan.ok · _) (List.ext_getElem (by simp [hlen]) fun j hj _ => ?_)
  have hend := mul_add_le_of_lt (k := k) (hlen ▸ hj)
  rw [List.getElem_map, List.getElem_range, ← pixelFromBytes_eq_pixelAt hk (by omega), ← hget j (hlen ▸ hj),
    List.getD_eq_getElem _ _ hj]

/-- A RAW packet cut short fails at the first pixel that is not all there. -/
theorem rawPacket_of_lt {cnt o : Nat} (ho : o ≤ src.length) (h : src.length < o + cnt * k) :
    rawPacket src k cnt o =
      .err (outOfBounds src k (o + (src.length - o) / k * k)) (o + (src.length - o) / k * k) := by
  induction cnt generalizing o with
  | zero => omega
  | succ cnt ih =>
    rw [Nat.succ_mul] at h
    rw [rawPacket]
    rcases Nat.lt_or_ge src.length (o + k) with hlt | hle
    · have hdiv : (src.length - o) / k = 0 := Nat.div_eq_of_lt (by omega)
      rw [cursorRead_of_lt hlt, Scan.bind_err, hdiv, Nat.zero_mul, Nat.add_zero]
    · have hdiv : (src.length - o) / k = (src.length - (o + k)) / k + 1 := by
        rw [← Nat.add_div_right _ (by omega)]
        congr 1
        omega
      rw [cursorRead_of_le hle, Scan.bind_ok, ih hle (by omega), Scan.bind_err, hdiv, Nat.succ_mul,
        Nat.add_right_comm, Nat.add_assoc]

/-- A RUN packet whose colour is there. -/
theorem runPacket_eq {cnt o : Nat} (h : o + k ≤ src.length) :
    runPacket src k cnt o = .ok (List.replicate cnt (pixelAt src o k)) (o + k) := by
  rw [runPacket, cursorRead_of_le h, Scan.bind_ok, pixelFromBytes_eq_pixelAt hk h]

end

theorem runPacket_of_lt {src : List Byte} {k cnt o : Nat} (h : src.length < o + k) :
    runPacket src k cnt o = .err (outOfBounds src k o) o := by
  rw [runPacket, cursorRead_of_lt h, Scan.bind_err]

/-! ## Packets of a decode in progress (R207 to R210) -/

section
variable {cnt : Nat} {payload : Nat → Scan (List Word)} {d : Decoding} {s : State}

theorem packetBody_of_ok {ps : List Word} {c : Nat} (hfit : d.pix.length + cnt ≤ d.hdr.area)
    (hp : payload s.coff = .ok ps c) : packetBody cnt payload d s = s.producePixels d ps c := by
  rw [packetBody, if_neg hfit.not_gt, hp]

theorem packetBody_of_err {e : Report} {c : Nat} (hfit : d.pix.length + cnt ≤ d.hdr.area)
    (hp : payload s.coff = .err e c) : packetBody cnt payload d s = s.abortDecode e c := by
  rw [packetBody, if_neg hfit.not_gt, hp]

theorem packetBody_of_overshoot (hover : d.hdr.area < d.pix.length + cnt) :
    packetBody cnt payload d s = s.abortDecode (overshoot d cnt s.coff) s.coff := if_pos hover

theorem exec_raw_of_dec (hd : s.dec = some d) (n : BitVec 7) : exec (.raw n) s = .next (rawBody n d s) := by
  show execRaw n s = _
  rw [execRaw, hd]

theorem exec_run_of_dec (hd : s.dec = some d) (n : BitVec 7) : exec (.run n) s = .next (runBody n d s) := by
  show execRun n s = _
  rw [execRun, hd]

/-- A packet with no decode in progress is refused (R102; log 14). -/
theorem exec_raw_of_dec_none (hd : s.dec = none) (n : BitVec 7) :
    exec (.raw n) s = .refused .packetOutsideDecode := by
  show execRaw n s = _
  rw [execRaw, hd]

theorem exec_run_of_dec_none (hd : s.dec = none) (n : BitVec 7) :
    exec (.run n) s = .refused .packetOutsideDecode := by
  show execRun n s = _
  rw [execRun, hd]

/-- With every pixel there the slot is written and the decode is over (R210). -/
theorem producePixels_of_full {ps : List Word} {c : Nat} (h : d.hdr.area ≤ (d.pix ++ ps).length) :
    s.producePixels d ps c = ((s.setCoff c).commitImage d.slot d.hdr (d.pix ++ ps)).setDec none :=
  if_neg h.not_gt

/-- A RAW packet that fits its image and whose bytes are all there (R208). -/
theorem rawBody_eq {n : BitVec 7} (hl : d.hdr.legal) (hfit : d.pix.length + packetCount n ≤ d.hdr.area)
    (h : s.coff + packetCount n * d.hdr.bytesPerPixel ≤ s.src.length) :
    rawBody n d s = s.producePixels d
      ((List.range (packetCount n)).map fun j =>
        pixelAt s.src (s.coff + j * d.hdr.bytesPerPixel) d.hdr.bytesPerPixel)
      (s.coff + packetCount n * d.hdr.bytesPerPixel) :=
  packetBody_of_ok hfit (rawPacket_eq hl.bytesPerPixel h)

/-- A RUN packet that fits its image and whose colour is there (R209). -/
theorem runBody_eq {n : BitVec 7} (hl : d.hdr.legal) (hfit : d.pix.length + packetCount n ≤ d.hdr.area)
    (h : s.coff + d.hdr.bytesPerPixel ≤ s.src.length) :
    runBody n d s = s.producePixels d
      (List.replicate (packetCount n) (pixelAt s.src s.coff d.hdr.bytesPerPixel))
      (s.coff + d.hdr.bytesPerPixel) :=
  packetBody_of_ok hfit (runPacket_eq hl.bytesPerPixel h)

theorem rawBody_of_lt {n : BitVec 7} (hl : d.hdr.legal) (hfit : d.pix.length + packetCount n ≤ d.hdr.area)
    (hs : s.coff ≤ s.src.length) (h : s.src.length < s.coff + packetCount n * d.hdr.bytesPerPixel) :
    rawBody n d s = s.abortDecode
      (outOfBounds s.src d.hdr.bytesPerPixel
        (s.coff + (s.src.length - s.coff) / d.hdr.bytesPerPixel * d.hdr.bytesPerPixel))
      (s.coff + (s.src.length - s.coff) / d.hdr.bytesPerPixel * d.hdr.bytesPerPixel) :=
  packetBody_of_err hfit (rawPacket_of_lt hl.bytesPerPixel hs h)

theorem runBody_of_lt {n : BitVec 7} (hfit : d.pix.length + packetCount n ≤ d.hdr.area)
    (h : s.src.length < s.coff + d.hdr.bytesPerPixel) :
    runBody n d s = s.abortDecode (outOfBounds s.src d.hdr.bytesPerPixel s.coff) s.coff :=
  packetBody_of_err hfit (runPacket_of_lt h)

end

/-- Settles O29. -/
theorem rawPacketProducesPixels : Obligations.RawPacketProducesPixels := by
  refine ⟨fun _ => rfl, fun n s d hd hok hcoff hfit => ?_⟩
  obtain ⟨hlegal, -, -⟩ := hok
  exact ⟨fun henough => (exec_raw_of_dec hd n).trans (congrArg _ (rawBody_eq hlegal hfit henough)),
    fun hfew => (exec_raw_of_dec hd n).trans (congrArg _ (rawBody_of_lt hlegal hfit hcoff hfew))⟩

/-- Settles O30. -/
theorem runPacketReplicatesPixel : Obligations.RunPacketReplicatesPixel := by
  refine ⟨fun _ => rfl, fun n s d hd hok _ hfit => ?_⟩
  obtain ⟨hlegal, -, -⟩ := hok
  exact ⟨fun henough => (exec_run_of_dec hd n).trans (congrArg _ (runBody_eq hlegal hfit henough)),
    fun hfew => (exec_run_of_dec hd n).trans (congrArg _ (runBody_of_lt hfit hfew))⟩

/-- Settles O31: both packets make the check of R207 before their payload. -/
theorem packetOvershootIsMalformed : Obligations.PacketOvershootIsMalformed := by
  intro n s i hi
  obtain rfl | rfl : i = .raw n ∨ i = .run n := by simpa using hi
  · exact ⟨fun d hd _ hover => (exec_raw_of_dec hd n).trans (congrArg _ (packetBody_of_overshoot hover)),
      fun hs => exec_raw_of_dec_none hs n⟩
  · exact ⟨fun d hd _ hover => (exec_run_of_dec hd n).trans (congrArg _ (packetBody_of_overshoot hover)),
      fun hs => exec_run_of_dec_none hs n⟩

/-! ## The packet loop (R207) -/

section
variable {d : Decoding} {s : State}

theorem packetCount_repCount (b : Byte) : packetCount (repCount b) = repPixels b := by
  simp [packetCount, repPixels, repCount]

/-- An iteration over a repetition byte that is there is its packet (R207). -/
theorem packetIteration_eq {b : Byte} (hb : s.src[s.coff]? = some b) :
    packetIteration d s =
      if b.getLsbD 7 then runBody (repCount b) d (s.setCoff (s.coff + 1))
      else rawBody (repCount b) d (s.setCoff (s.coff + 1)) := by
  unfold packetIteration
  rcases fetchRep_cases s with ⟨hend, -⟩ | ⟨-, hfetch⟩
  · simp [List.getElem?_eq_none hend] at hb
  · have hget : s.src.getD s.coff 0#8 = b := by simp [List.getD_eq_getElem?_getD, hb]
    rw [hfetch, hget]
    rfl

end

/-- A decode that stands at offset `o` and lacks exactly the pixels `ps` takes them from the packets there and
ends at `c`. -/
def LoopTakes (src : List Byte) (k o : Nat) (ps : List Word) (c : Nat) : Prop :=
  ∀ (fuel : Nat) (s : State) (d : Decoding), s.src = src → s.coff = o → s.dec = some d → d.ok →
    d.hdr.bytesPerPixel = k → d.pix.length + ps.length = d.hdr.area → ps.length ≤ fuel →
    packetLoop fuel s = s.producePixels d ps c

section
variable {src : List Byte} {k o o' c : Nat} {qs ps : List Word}

/-- A packet in front: its iteration produces its pixels `qs` and leaves the rest of the stream. -/
theorem LoopTakes.packet (h : LoopTakes src k o' ps c) (hnil : ps = [] → o' = c) (hqs : 0 < qs.length)
    (hiter : ∀ (s : State) (d : Decoding), s.src = src → s.coff = o → d.hdr.legal →
      d.hdr.bytesPerPixel = k → d.pix.length + qs.length ≤ d.hdr.area →
      packetIteration d s = s.producePixels d qs o') :
    LoopTakes src k o (qs ++ ps) c := by
  intro fuel s d hsrc ho hd hok hk hall hfuel
  have ⟨hlegal, htype, _⟩ := hok
  rw [List.length_append] at hall hfuel
  obtain ⟨fuel, rfl⟩ : ∃ f, fuel = f + 1 := ⟨fuel - 1, by omega⟩
  rw [packetLoop_succ_of_dec hd, hiter s d hsrc ho hlegal hk (by omega)]
  rcases producePixels_cases s d qs o' with ⟨hmore, e⟩ | ⟨hdone, e⟩
  · have hrest : (d.pix ++ qs).length + ps.length = d.hdr.area := by rw [List.length_append]; omega
    rw [e, h fuel (State.setDec (s.setCoff o') _) { d with pix := d.pix ++ qs } hsrc rfl rfl
      ⟨hlegal, htype, hmore⟩ hk hrest (by omega)]
    unfold State.producePixels
    rw [List.append_assoc]
    rfl
  · obtain rfl : ps = [] := List.eq_nil_of_length_eq_zero (by rw [List.length_append] at hdone; omega)
    rw [List.append_nil, ← hnil rfl, e, packetLoop_of_dec_none rfl]

/-- A stream without pixels has no packet, since each has one pixel at least. -/
theorem Packets.eq_of_nil (h : Packets src k o ps c) (hps : ps = []) : o = c := by
  cases h with
  | done => rfl
  | raw o b ps c hb h7 hlen h => simp [repPixels] at hps
  | run o b ps c hb h7 hlen h => simp [repPixels] at hps

/-- The packets of a stream, one iteration each. -/
theorem Packets.loopTakes (h : Packets src k o ps c) : LoopTakes src k o ps c := by
  induction h with
  | done o =>
    intro fuel s d _ _ _ hok _ hall _
    obtain ⟨-, -, hlt⟩ := hok
    exact absurd hall hlt.ne
  | raw o b ps c hb h7 hlen h ih =>
    refine ih.packet (Packets.eq_of_nil h) (by simp [repPixels]) ?_
    rintro s d rfl rfl hlegal rfl hfit
    rw [List.length_map, List.length_range, ← packetCount_repCount] at hfit
    rw [← packetCount_repCount] at hlen ⊢
    rw [packetIteration_eq hb, h7]
    exact rawBody_eq hlegal hfit hlen
  | run o b ps c hb h7 hlen h ih =>
    refine ih.packet (Packets.eq_of_nil h) (by simp [repPixels]) ?_
    rintro s d rfl rfl hlegal rfl hfit
    rw [List.length_replicate, ← packetCount_repCount] at hfit
    rw [← packetCount_repCount, packetIteration_eq hb, h7]
    exact runBody_eq hlegal hfit hlen

end

/-- A decode in progress whose packets spell the pixels it lacks runs to the commit of its image. -/
theorem idecFinish_packets {s : State} {d : Decoding} {ps : List Word} {c : Nat} (hd : s.dec = some d)
    (hok : d.ok) (hp : Packets s.src d.hdr.bytesPerPixel s.coff ps c)
    (hall : d.pix.length + ps.length = d.hdr.area) :
    idecFinish s = ((s.setCoff c).commitImage d.slot d.hdr (d.pix ++ ps)).setDec none := by
  have hfuel : ps.length ≤ d.hdr.area := hall ▸ Nat.le_add_left _ _
  have hfull : d.hdr.area ≤ (d.pix ++ ps).length := by rw [List.length_append, hall]
  rw [idecFinish, hd]
  exact (hp.loopTakes _ s d rfl rfl hd hok rfl hall hfuel).trans (producePixels_of_full hfull)

/-! ## IDEC (R203, R210) -/

section
variable {s : State} (hs : s.dec = none) (hh : headerFailure s.src s.coff = none)
include hs hh

/-- IDEC over a good header, before the pixels: HS has the header and COFF is behind it. -/
theorem idecBegin_header_cases (k : Slot) :
    let h := headerAt s.src s.coff
    let t := (s.clearReport.setCoff (s.coff + 18)).setHs h
    (h.imageType = 2#8 ∧ ∃ e c, decodeRaw s.src h (s.coff + 18) = .err e c ∧ idecBegin k s = t.scanFailed e c) ∨
      (h.imageType = 2#8 ∧ ∃ pix c, decodeRaw s.src h (s.coff + 18) = .ok pix c ∧
        idecBegin k s = (t.setCoff c).commitImage k h pix) ∨
      (h.imageType ≠ 2#8 ∧ idecBegin k s = t.setDec (some { slot := k, hdr := h, pix := [] })) := by
  have hbegin := idecBegin_cases k s
  rw [State.setDec_none (s := s.clearReport) hs, parseHeader_of_failure_none hh] at hbegin
  rcases hbegin with ⟨e, c, hp, -⟩ | ⟨hdr, c, hp, hcases⟩
  · cases hp
  · cases hp
    exact hcases

/-- An uncompressed file whose pixel bytes are all there. -/
theorem exec_idec_raw {k : Slot} {pix : List Word} {c : Nat}
    (ht : (headerAt s.src s.coff).imageType = 2#8)
    (hd : decodeRaw s.src (headerAt s.src s.coff) (s.coff + 18) = .ok pix c) :
    exec (.idec k) s = .next (({ s.okFrom with
      coff := c, hs := { valid := true, hdr := headerAt s.src s.coff } } : State).setImg k
        { valid := true, hdr := headerAt s.src s.coff, pix := Memory.ofList pix }) := by
  refine exec_idec_of_dec_none ?_ hs
  rcases idecBegin_header_cases hs hh k with ⟨-, e', c', hd', -⟩ | ⟨-, pix', c', hd', eq⟩ | ⟨ht', -⟩
  · cases hd.symm.trans hd'
  · cases hd.symm.trans hd'
    exact eq
  · exact absurd ht ht'

/-- An uncompressed file cut short. -/
theorem exec_idec_raw_failed {k : Slot} {e : Report} {c : Nat}
    (ht : (headerAt s.src s.coff).imageType = 2#8)
    (hd : decodeRaw s.src (headerAt s.src s.coff) (s.coff + 18) = .err e c) :
    exec (.idec k) s = .next { s.errFrom e.kind.code e.info0 e.info1 e.off with
      coff := c, hs := { valid := true, hdr := headerAt s.src s.coff } } := by
  refine exec_idec_of_dec_none ?_ hs
  rcases idecBegin_header_cases hs hh k with ⟨-, e', c', hd', eq⟩ | ⟨-, pix', c', hd', -⟩ | ⟨ht', -⟩
  · cases hd.symm.trans hd'
    exact eq
  · cases hd.symm.trans hd'
  · exact absurd ht ht'

/-- A run-length file whose packets spell the image's pixels. -/
theorem exec_idec_runLength {k : Slot} {ps : List Word} {c : Nat}
    (ht : (headerAt s.src s.coff).imageType = 10#8)
    (hp : Packets s.src (headerAt s.src s.coff).bytesPerPixel (s.coff + 18) ps c)
    (hlen : ps.length = (headerAt s.src s.coff).area) :
    exec (.idec k) s = .next (({ s.okFrom with
      coff := c, hs := { valid := true, hdr := headerAt s.src s.coff } } : State).setImg k
        { valid := true, hdr := headerAt s.src s.coff, pix := Memory.ofList ps }) := by
  obtain ⟨-, hlegal⟩ := header_of_failure_none hh
  rcases idecBegin_header_cases hs hh k with ⟨ht', -⟩ | ⟨ht', -⟩ | ⟨-, eq⟩
  · simp [ht] at ht'
  · simp [ht] at ht'
  · have hok : Decoding.ok ⟨k, headerAt s.src s.coff, []⟩ := ⟨hlegal, ht, hlegal.area_pos⟩
    have hall : 0 + ps.length = (headerAt s.src s.coff).area := (Nat.zero_add _).trans hlen
    refine congrArg Host.Outcome.next ?_
    rw [eq]
    refine Eq.trans (idecFinish_packets rfl hok hp hall) ?_
    obtain ⟨⟩ := s
    cases hs
    rfl

end

section
variable {src : List Byte} {h : Header} {o : Nat}

theorem decodeRaw_of_le (hle : o + h.area * h.bytesPerPixel ≤ src.length) :
    decodeRaw src h o =
      .ok (chunkPixels h.bytesPerPixel h.area ((src.drop o).take (h.area * h.bytesPerPixel)))
        (o + h.area * h.bytesPerPixel) := by
  rw [decodeRaw, cursorRead_of_le hle, Scan.bind_ok]

theorem decodeRaw_of_lt (hlt : src.length < o + h.area * h.bytesPerPixel) :
    decodeRaw src h o = .err (outOfBounds src (h.area * h.bytesPerPixel) o) o := by
  rw [decodeRaw, cursorRead_of_lt hlt, Scan.bind_err]

/-- Element `i` of the stream is the pixel at its own bytes (R203). -/
theorem getD_chunkPixels_stream {k n i : Nat} (hk : k = 3 ∨ k = 4) (hi : i < n) (hle : o + n * k ≤ src.length)
    (d : Word) :
    (chunkPixels k n ((src.drop o).take (n * k))).getD i d = pixelAt src (o + i * k) k := by
  have hend := mul_add_le_of_lt (k := k) hi
  rw [getD_chunkPixels hi, List.drop_take, List.drop_drop, List.take_take, min_eq_left (by omega),
    pixelFromBytes_eq_pixelAt hk (by omega)]

end

/-- Settles O26. -/
theorem idecUncompressed : Obligations.IdecUncompressed := by
  intro k s hs hh ht
  obtain ⟨-, hlegal⟩ := header_of_failure_none hh
  refine ⟨fun hle => ?_, fun hlt => ?_⟩
  · refine ⟨_, exec_idec_raw hs hh ht (decodeRaw_of_le hle), Memory.ofList_wf _, fun i hi => ?_⟩
    rw [Memory.read_ofList]
    exact getD_chunkPixels_stream hlegal.bytesPerPixel hi hle _
  · exact exec_idec_raw_failed hs hh ht (decodeRaw_of_lt hlt)

/-- Settles O27. -/
theorem idecRunLength : Obligations.IdecRunLength := by
  refine ⟨slotCommand_word (op := 0x24#8) rfl, fun k s ps c hs hh ht hp hlen => ?_⟩
  refine ⟨_, exec_idec_runLength hs hh ht hp hlen, Memory.ofList_wf _, fun i hi => ?_⟩
  rw [Memory.read_ofList]
  simp [List.getD_eq_getElem?_getD, hi]

end Sys2Proof.Machine
end

section
/-! The file IENC writes (43_codec.md R212 to R215), and reading it back (R216). -/

namespace Sys2Proof.Machine

/-! ## The parts of the file -/

section
variable {s : State} {k : Slot}

theorem exec_ienc_valid (hv : (s.img k).valid = true) :
    exec (.ienc k) s = .next { s.okFrom with snk := s.snk ++ encodeFile (s.img k) } := if_pos hv

theorem exec_ienc_invalid (hv : (s.img k).valid = false) :
    exec (.ienc k) s = .next (s.errFrom 7#8 (slotWord 0x25 k) 1#64 (BitVec.ofNat 64 s.coff)) :=
  (if_neg (Bool.eq_false_iff.1 hv)).trans
    (congrArg Host.Outcome.next (slotCommand_raiseIllegal (op := 0x25#8) rfl k s .slot))

end

/-- The four bytes of pixel `i` of a stream (R214). -/
theorem take_drop_flatMap {l : List Word} {i : Nat} (h : i < l.length) (r : List Byte) :
    (((l.flatMap pixelToBytes) ++ r).drop (4 * i)).take 4 = pixelToBytes l[i] := by
  induction l generalizing i with
  | nil => simp at h
  | cons c l ih =>
    cases i with
    | zero => rfl
    | succ i => exact ih (i := i) (by simpa using h)

/-- Decoding a pixel undoes encoding it (R164). -/
theorem pixelFromBytes_pixelToBytes (c : Word) : pixelFromBytes (pixelToBytes c) = c := pack_unpack c

/-- The chunks of an encoded stream are its pixels. -/
theorem chunkPixels_flatMap (l : List Word) : chunkPixels 4 l.length (l.flatMap pixelToBytes) = l := by
  induction l with
  | nil => rfl
  | cons c l ih =>
    show pixelFromBytes (pixelToBytes c) :: chunkPixels 4 l.length (l.flatMap pixelToBytes) = c :: l
    rw [pixelFromBytes_pixelToBytes, ih]

section
variable (im : Image)

theorem length_encodeFile : (encodeFile im).length = 18 + 4 * im.hdr.area + 26 := by
  simp [encodeFile, Nat.add_assoc]

/-- The file behind its header. -/
theorem drop_encodeFile (n : Nat) : (encodeFile im).drop (18 + n) = (encodePixels im ++ footer).drop n := by
  rw [encodeFile, List.append_assoc, List.drop_append, length_encodeHeader]
  simp

end

/-- Settles O32. -/
theorem iencAppendsFile : Obligations.IencAppendsFile := by
  refine ⟨slotCommand_word (op := 0x25#8) rfl, fun k s => ⟨fun hv => ?_, exec_ienc_invalid⟩⟩
  refine ⟨encodeFile (s.img k), exec_ienc_valid hv, length_encodeFile _, rfl, fun i hi => ?_, ?_⟩
  · have hlt : i < ((s.img k).pix.toList (s.img k).hdr.area).length := (Memory.length_toList _ _).symm ▸ hi
    have hget : ((s.img k).pix.toList (s.img k).hdr.area)[i] = (s.img k).pix.read i := by simp [Memory.toList]
    rw [drop_encodeFile, encodePixels, take_drop_flatMap hlt, hget]
    rfl
  · rw [drop_encodeFile]
    exact List.drop_left' (length_encodePixels _)

/-! ## Reading the file back (R216) -/

theorem leBytes_append (v : Half) : (v.extractLsb' 8 8 ++ v.extractLsb' 0 8 : Half) = v :=
  BitVec.extractLsb'_append_extractLsb'_eq_extractLsb' rfl |>.trans BitVec.extractLsb'_eq_self

/-- The header that IENC writes for an image with header `h` (R213). -/
def Header.encoded (h : Header) : Header :=
  { h with imageType := 2, bitsPerPixel := 32, imageDescriptor := Config.idescW }

theorem headerAt_encodeFile {im : Image} (hl : im.hdr.legal) : headerAt (encodeFile im) 0 = im.hdr.encoded := by
  obtain ⟨hid, hmap, -, hspec, -⟩ := hl
  have hx : (headerAt (encodeFile im) 0).xOrigin = im.hdr.xOrigin := leBytes_append _
  have hy : (headerAt (encodeFile im) 0).yOrigin = im.hdr.yOrigin := leBytes_append _
  have hw : (headerAt (encodeFile im) 0).width = im.hdr.width := leBytes_append _
  have hh : (headerAt (encodeFile im) 0).height = im.hdr.height := leBytes_append _
  rw [Header.encoded, hid, hmap, hspec, ← hx, ← hy, ← hw, ← hh]
  rfl

/-- What a field's check asks of the field's value (R195). -/
def FieldCheck.Passes : FieldCheck → Nat → Prop
  | .zero, v => v = 0
  | .nonZero, v => v ≠ 0
  | .oneOf a b, v => v = a ∨ v = b
  | .any, _ => True

theorem HeaderField.failure_eq_none {f : HeaderField} {src : List Byte} {o : Nat}
    (hlen : o + f.offset + f.size ≤ src.length) (hcheck : f.check.Passes (leValue src (o + f.offset) f.size)) :
    f.failure src o = none := by
  obtain ⟨offset, size, check⟩ := f
  refine (if_neg hlen.not_gt).trans ?_
  cases check with
  | zero => exact if_pos hcheck
  | nonZero => exact if_pos hcheck
  | oneOf a b => exact if_pos hcheck
  | any => rfl

theorem headerFailure_encodeFile {im : Image} (hl : im.hdr.legal) : headerFailure (encodeFile im) 0 = none := by
  obtain ⟨-, -, -, -, hw, hh, -⟩ := hl
  have hinside : ∀ f ∈ headerFields, f.offset + f.size ≤ 18 := by decide
  have hchecks : ∀ f ∈ headerFields, f.check.Passes (leValue (encodeFile im) (0 + f.offset) f.size) := by
    have hwidth : leValue (encodeFile im) 12 2 = im.hdr.width.toNat :=
      (leValue_two _ _).trans (congrArg BitVec.toNat (leBytes_append _))
    have hheight : leValue (encodeFile im) 14 2 = im.hdr.height.toNat :=
      (leValue_two _ _).trans (congrArg BitVec.toNat (leBytes_append _))
    have hspec : leValue (encodeFile im) 3 5 = 0 :=
      (leNat_take_drop _ 3 5 (by rw [length_encodeFile]; omega)).symm.trans (leNat_zeros 5)
    simp only [headerFields, List.forall_mem_cons]
    exact ⟨rfl, rfl, .inl rfl, hspec, trivial, trivial, hwidth ▸ BitVec.toNat_ne.1 hw,
      hheight ▸ BitVec.toNat_ne.1 hh, .inr rfl, trivial, nofun⟩
  refine List.findSome?_eq_none_iff.2 fun f hf => HeaderField.failure_eq_none ?_ (hchecks f hf)
  have hfield := hinside f hf
  rw [length_encodeFile]
  omega

/-- The pixel stream of the file IENC writes (R203, R214). -/
theorem decodeRaw_encodeFile (im : Image) :
    decodeRaw (encodeFile im) im.hdr.encoded 18 = .ok (im.pix.toList im.hdr.area) (18 + 4 * im.hdr.area) := by
  have harea : im.hdr.encoded.area = im.hdr.area := rfl
  have hbpp : im.hdr.encoded.bytesPerPixel = 4 := by simp [Header.encoded, Header.bytesPerPixel]
  have hstream : ((encodeFile im).drop 18).take (im.hdr.area * 4) = encodePixels im :=
    (congrArg (List.take _) (drop_encodeFile im 0)).trans
      (List.take_left' ((length_encodePixels im).trans (Nat.mul_comm _ _)))
  have hchunks := chunkPixels_flatMap (im.pix.toList im.hdr.area)
  rw [Memory.length_toList] at hchunks
  rw [decodeRaw_of_le (by rw [harea, hbpp, length_encodeFile]; omega), harea, hbpp, hstream, encodePixels, hchunks,
    Nat.mul_comm]

/-- IDEC of the file IENC wrote for the image `im`. -/
theorem exec_idec_encodeFile {im : Image} (hl : im.hdr.legal) {s : State} (hs : s.dec = none)
    (hsrc : s.src = encodeFile im) (hcoff : s.coff = 0) (k : Slot) :
    exec (.idec k) s = .next (({ s.okFrom with
      coff := 18 + 4 * im.hdr.area, hs := { valid := true, hdr := im.hdr.encoded } } : State).setImg k
        { valid := true, hdr := im.hdr.encoded, pix := Memory.ofList (im.pix.toList im.hdr.area) }) := by
  have hhdr : headerAt s.src s.coff = im.hdr.encoded := by rw [hsrc, hcoff, headerAt_encodeFile hl]
  have hfail : headerFailure s.src s.coff = none := by rw [hsrc, hcoff, headerFailure_encodeFile hl]
  have htype : (headerAt s.src s.coff).imageType = 2#8 := by rw [hhdr]; rfl
  have hraw : decodeRaw s.src (headerAt s.src s.coff) (s.coff + 18) =
      .ok (im.pix.toList im.hdr.area) (18 + 4 * im.hdr.area) := by
    rw [hhdr, hsrc, hcoff, Nat.zero_add, decodeRaw_encodeFile]
  rw [exec_idec_raw hs hfail htype hraw, hhdr]

/-- Settles O33: a canonical memory is the one its list of elements describes. -/
theorem encodeThenDecodeRoundTrip : Obligations.EncodeThenDecodeRoundTrip := by
  intro k j s t hs hv hok henc
  have himg : ({ s with snk := [] } : State).img k = s.img k := by cases k <;> rfl
  rw [exec_ienc_valid (himg.symm ▸ hv), himg] at henc
  have ht := Host.Outcome.next.inj henc
  have hsnk : t.snk = encodeFile (s.img k) := ht ▸ rfl
  have hdec : t.dec = none := ht ▸ hs
  obtain ⟨hlegal, -, hwf, hwithin⟩ := hok
  have hidec := exec_idec_encodeFile (s := t.loadSrc t.snk) (hlegal hv) hdec hsnk rfl j
  refine ⟨_, hidec, rfl, ?_⟩
  rw [State.setImg_img_self]
  exact ⟨rfl, Memory.ofList_toList hwf hwithin, rfl, (hsnk ▸ length_encodeFile _).symm⟩

end Sys2Proof.Machine
end

section
/-! The words of the raster commands (30_encoding.md R100) and their preconditions (44_rasterizer.md R241):
the model's checks against the second writing of them, ZCLR, and what TRI, FACE and RENDER do once their checks
pass. -/

namespace Sys2Proof.Machine

/-! ## The word of a command with a texture slot -/

theorem toNat_append_bool {w : Nat} (x : BitVec w) (b : Bool) :
    (x ++ BitVec.ofBool b).toNat = 2 * x.toNat + b.toNat := by
  rw [BitVec.toNat_append, BitVec.toNat_ofBool, ← Nat.shiftLeft_add_eq_or_of_lt (by cases b <;> decide),
    Nat.shiftLeft_eq, Nat.mul_comm, pow_one]

/-- The word of a command with slots and flags is the sum of its fields at their places. -/
theorem cmdWordOf_flags (op : Byte) (s t tex zen : Bool) :
    (cmdWordOf op s t tex zen 0#4).toNat =
      op.toNat + 256 * s.toNat + 512 * t.toNat + 1024 * tex.toNat + 2048 * zen.toNat := by
  have happend (x : BitVec 24) : (x ++ op : Word).toNat = x.toNat <<< 8 + op.toNat :=
    (BitVec.toNat_append x op).trans (Nat.shiftLeft_add_eq_or_of_lt op.isLt _).symm
  have hword : cmdWordOf op s t tex zen 0#4 =
      ((0#20 ++ BitVec.ofBool zen ++ BitVec.ofBool tex ++ BitVec.ofBool t ++ BitVec.ofBool s : BitVec 24) ++ op :
        Word) := rfl
  rw [hword, happend, toNat_append_bool, toNat_append_bool, toNat_append_bool, toNat_append_bool,
    Nat.shiftLeft_eq, BitVec.toNat_ofNat]
  omega

theorem bit_toNat (k : Slot) : k.bit.toNat = slotNum k := by cases k <;> rfl

theorem encodeFill_eq_fillWord (op : Byte) (k : Slot) (tex : Option Slot) (zen : Bool) :
    encodeFill op k tex zen = fillWord op.toNat k tex zen := by
  have hop := op.isLt
  have hk : slotNum k < 2 := by cases k <;> decide
  have hzen := zen.toNat_lt
  refine BitVec.eq_of_toNat_eq ?_
  cases tex with
  | none =>
    simp only [encodeFill, fillWord, cmdWordOf_flags, bit_toNat, Bool.toNat_false, BitVec.toNat_ofNat]
    omega
  | some t =>
    have ht : slotNum t < 2 := by cases t <;> decide
    simp only [encodeFill, fillWord, cmdWordOf_flags, bit_toNat, Bool.toNat_true, BitVec.toNat_ofNat]
    omega

/-! ## The checks (R241) -/

/-- The exponent field decides whether a pattern is finite. -/
theorem isFinite_ofBits (b : Dword) : (F64.ofBits b).isFinite = true ↔ finiteBits b := by
  have hexp : finiteBits b ↔ (b.extractLsb' 52 11).toNat ≠ 2047 :=
    not_congr ⟨fun h => h ▸ rfl, fun h => BitVec.eq_of_toNat_eq h⟩
  rw [hexp, F64.ofBits_eq, F64.ofFields]
  generalize (b.extractLsb' 52 11).toNat = e
  split_ifs with he hf h0
  · exact iff_of_false Bool.false_ne_true (not_not.2 he)
  · exact iff_of_false Bool.false_ne_true (not_not.2 he)
  · exact iff_of_true rfl he
  · exact iff_of_true rfl he

theorem textureValid_eq_false_iff {s : State} {tex : Option Slot} :
    s.textureValid tex = false ↔ ∃ t, tex = some t ∧ (s.img t).valid = false := by
  cases tex <;> simp [State.textureValid]

theorem depthFits_iff {s : State} {k : Slot} :
    s.depthFits k = true ↔
      s.zb.valid = true ∧ s.zb.w = (s.img k).hdr.width ∧ s.zb.h = (s.img k).hdr.height := by
  simp [State.depthFits, and_assoc]

theorem argTriangle_finiteXY_iff {s : State} :
    s.argTriangle.finiteXY = true ↔ finiteBits s.a[0] ∧ finiteBits s.a[1] ∧ finiteBits s.a[3] ∧
      finiteBits s.a[4] ∧ finiteBits s.a[6] ∧ finiteBits s.a[7] := by
  simp only [← isFinite_ofBits]
  simp only [Triangle.finiteXY, Vec3.finiteXY, Bool.and_eq_true, and_assoc]
  exact Iff.rfl

/-- The checks of ZCLR, LINE and RENDER as R241 lists them. -/
theorem targetCheck_eq (s : State) (k : Slot) (tex : Option Slot) :
    s.targetCheck k tex =
      if (s.img k).valid = false then some .slot
      else if ∃ t, tex = some t ∧ (s.img t).valid = false then some .texture else none := by
  simp only [State.targetCheck, Bool.not_eq_true', textureValid_eq_false_iff]

/-- The checks of TRI and FACE as R241 lists them. -/
theorem fillCheck_eq (s : State) (k : Slot) (tex : Option Slot) (zen : Bool) :
    s.fillCheck k tex zen =
      if (s.img k).valid = false then some .slot
      else if ∃ t, tex = some t ∧ (s.img t).valid = false then some .texture
      else if zen = true ∧ ¬ s.depthFits k = true then some .depth
      else if ¬ s.argTriangle.finiteXY = true then some .vertex else none := by
  simp only [State.fillCheck, targetCheck_eq, Bool.and_eq_true, Bool.not_eq_true', Bool.not_eq_true]
  split_ifs <;> rfl

/-- The first failing check of a command without depth test and vertices. -/
theorem rasterFailure_target (s : State) (k : Slot) (tex : Option Slot) :
    s.rasterFailure ⟨k, tex, false, false⟩ = (s.targetCheck k tex).map IllegalReason.code := by
  simp only [State.rasterFailure, targetCheck_eq, apply_ite (Option.map IllegalReason.code), Option.map_some,
    Option.map_none, IllegalReason.code, Bool.false_eq_true, false_and, if_false]

/-- The first failing check of a TRI or FACE. -/
theorem rasterFailure_fill (s : State) (k : Slot) (tex : Option Slot) (zen : Bool) :
    s.rasterFailure ⟨k, tex, zen, true⟩ = (s.fillCheck k tex zen).map IllegalReason.code := by
  simp only [State.rasterFailure, fillCheck_eq, apply_ite (Option.map IllegalReason.code), Option.map_some,
    Option.map_none, IllegalReason.code, depthFits_iff, argTriangle_finiteXY_iff, true_and]

theorem rasterFailure_fill_eq_none {s : State} {k : Slot} {tex : Option Slot} {zen : Bool} :
    s.rasterFailure ⟨k, tex, zen, true⟩ = none ↔ s.fillCheck k tex zen = none := by
  rw [rasterFailure_fill, Option.map_eq_none_iff]

theorem rasterFailure_target_eq_none {s : State} {k : Slot} {tex : Option Slot} :
    s.rasterFailure ⟨k, tex, false, false⟩ = none ↔ s.targetCheck k tex = none := by
  rw [rasterFailure_target, Option.map_eq_none_iff]

theorem targetCheck_of_rasterFailure {s : State} {k : Slot} {tex : Option Slot} {r : Dword}
    (h : s.rasterFailure ⟨k, tex, false, false⟩ = some r) :
    ∃ x : IllegalReason, s.targetCheck k tex = some x ∧ x.code = r :=
  Option.map_eq_some_iff.1 ((rasterFailure_target s k tex).symm.trans h)

theorem fillCheck_of_rasterFailure {s : State} {k : Slot} {tex : Option Slot} {zen : Bool} {r : Dword}
    (h : s.rasterFailure ⟨k, tex, zen, true⟩ = some r) :
    ∃ x : IllegalReason, s.fillCheck k tex zen = some x ∧ x.code = r :=
  Option.map_eq_some_iff.1 ((rasterFailure_fill s k tex zen).symm.trans h)

/-! ## A failing check -/

theorem cmdWord_of_encode {i : Instr} {w : Word} (h : encode i = .cmd32 w) : cmdWord i = w := by
  rw [cmdWord, h]

theorem raiseIllegal_eq_errFrom (s : State) (w : Word) (x : IllegalReason) :
    s.clearReport.raiseIllegal w x = s.errFrom 7#8 (w.setWidth 64) x.code (BitVec.ofNat 64 s.coff) := rfl

section
variable {s : State} {k : Slot} {tex : Option Slot} {zen : Bool} {x : IllegalReason}

theorem exec_zclr_failed (h : s.targetCheck k none = some x) :
    exec (.zclr k) s = .next (s.clearReport.raiseIllegal (cmdWord (.zclr k)) x) := by
  cases hv : (s.img k).valid <;> simp [State.targetCheck, State.textureValid, hv] at h
  simp [exec, execZclr, hv, h]

theorem exec_line_failed (h : s.targetCheck k none = some x) :
    exec (.line k) s = .next (s.clearReport.raiseIllegal (cmdWord (.line k)) x) := by
  cases hv : (s.img k).valid <;> simp [State.targetCheck, State.textureValid, hv] at h
  simp [exec, execLine, hv, h]

theorem exec_tri_failed (h : s.fillCheck k tex zen = some x) :
    exec (.tri k tex zen) s = .next (s.clearReport.raiseIllegal (cmdWord (.tri k tex zen)) x) := by
  simp only [exec, execTri, h]

theorem exec_face_failed (h : s.fillCheck k tex zen = some x) :
    exec (.face k tex zen) s = .next (s.clearReport.raiseIllegal (cmdWord (.face k tex zen)) x) := by
  simp only [exec, execFace, h]

theorem exec_render_failed (h : s.targetCheck k tex = some x) :
    exec (.render k tex) s = .next (s.clearReport.raiseIllegal (cmdWord (.render k tex)) x) := by
  simp only [exec, execRender, h]

/-- A raster command reports the first check of R241 that fails. -/
theorem exec_raster_failed {i : Instr} {o : RasterOperands} {r : Dword} (hi : rasterOperands i = some o)
    (h : s.rasterFailure o = some r) :
    ∃ x : IllegalReason, exec i s = .next (s.clearReport.raiseIllegal (cmdWord i) x) ∧ x.code = r := by
  cases i with
  | zclr k => cases hi; exact (targetCheck_of_rasterFailure h).imp fun _ => And.imp_left exec_zclr_failed
  | line k => cases hi; exact (targetCheck_of_rasterFailure h).imp fun _ => And.imp_left exec_line_failed
  | tri k tex zen => cases hi; exact (fillCheck_of_rasterFailure h).imp fun _ => And.imp_left exec_tri_failed
  | face k tex zen => cases hi; exact (fillCheck_of_rasterFailure h).imp fun _ => And.imp_left exec_face_failed
  | render k tex => cases hi; exact (targetCheck_of_rasterFailure h).imp fun _ => And.imp_left exec_render_failed
  | _ => cases hi

end

/-! ## All checks passed -/

section
variable {s : State} {k : Slot} {tex : Option Slot} {zen : Bool}

theorem exec_zclr_valid (hv : (s.img k).valid = true) :
    exec (.zclr k) s =
      .next (s.clearReport.setZb (DepthBuffer.fresh (s.img k).hdr.width (s.img k).hdr.height)) := if_pos hv

theorem exec_line_valid (hv : (s.img k).valid = true) :
    exec (.line k) s = .next (s.clearReport.setPix k
      (drawLine (s.target k) (s.argCoord 0) (s.argCoord 1) (s.argCoord 2) (s.argCoord 3) (s.argColor 4)
        (s.img k).pix)) := if_pos hv

/-- The fill that TRI makes of its operands (R262). -/
def State.triFill (s : State) (tex : Option Slot) (zen : Bool) : Fill :=
  { tri := s.argTriangle, tex := s.texture tex s.argTexCoords, zen := zen, color := s.argColor 15 }

theorem exec_tri_passed (h : s.fillCheck k tex zen = none) :
    exec (.tri k tex zen) s = .next (s.clearReport.setCanvas k
      (fillTriangle (s.target k) (s.triFill tex zen) (s.canvas k))) := by
  simp only [exec, execTri, h, State.triFill]

theorem exec_face_passed (h : s.fillCheck k tex zen = none) :
    exec (.face k tex zen) s = .next (s.clearReport.setCanvas k
      (shadeAndFill (s.target k) s.argTriangle (s.texture tex s.argTexCoords) zen (s.canvas k))) := by
  simp only [exec, execFace, h]

theorem targetCheck_none_tex : s.targetCheck k none = none ↔ (s.img k).valid = true := by
  rw [targetCheck_eq_none]
  exact and_iff_left rfl

/-- Of a raster command whose checks pass only RENDER can have no next state. -/
theorem exec_raster_passed {i : Instr} {o : RasterOperands} (hi : rasterOperands i = some o)
    (h : s.rasterFailure o = none) (hrender : ∀ k tex, i ≠ .render k tex) :
    ∃ t, exec i s = .next t ∧ t.err = 0#8 := by
  cases i with
  | zclr k =>
    cases hi
    exact ⟨_, exec_zclr_valid (targetCheck_none_tex.1 (rasterFailure_target_eq_none.1 h)), rfl⟩
  | line k =>
    cases hi
    exact ⟨_, exec_line_valid (targetCheck_none_tex.1 (rasterFailure_target_eq_none.1 h)), rfl⟩
  | tri k tex zen =>
    cases hi
    exact ⟨_, exec_tri_passed (rasterFailure_fill_eq_none.1 h), rfl⟩
  | face k tex zen =>
    cases hi
    exact ⟨_, exec_face_passed (rasterFailure_fill_eq_none.1 h), rfl⟩
  | render k tex => exact absurd rfl (hrender k tex)
  | _ => cases hi

end

/-- Settles O34: each command's own check is the first failing one of R241's list. -/
theorem rasterChecksInOrder : Obligations.RasterChecksInOrder := by
  intro i o w s hi hw
  refine ⟨fun r hr => ?_, exec_raster_passed hi⟩
  obtain ⟨x, hexec, rfl⟩ := exec_raster_failed hi hr
  rw [hexec, cmdWord_of_encode hw, raiseIllegal_eq_errFrom]

/-! ## ZCLR (R240) -/

/-- Settles O35: the fresh depth buffer lists no element, and an unlisted one is minus infinity. -/
theorem zclrMakesFreshDepth : Obligations.ZclrMakesFreshDepth := by
  refine ⟨slotCommand_word (op := 0x30#8) rfl, fun k s => ⟨fun hv => ?_, fun hv => ?_⟩⟩
  · exact ⟨Memory.empty, fun _ => rfl, exec_zclr_valid hv⟩
  · rw [exec_zclr_failed (x := .slot) (by simp [State.targetCheck, hv]),
      slotCommand_raiseIllegal (op := 0x30#8) rfl]
    rfl

end Sys2Proof.Machine
end

section
/-! Lines (44_rasterizer.md R244 to R247): the positions of the loop, the slope and its accumulated error as one
rounding each, and what plotting them writes. -/

namespace Sys2Proof.Machine

/-! ## The positions of a line (R246) -/

/-- The positions of `DrawLine` from (p0, q0) to (p1, q1), where the first coordinate drives: those of the loop,
then the endpoint. -/
def drivenLine (g : F64) (p0 q0 p1 q1 : Int) : List (Int × Int) :=
  lineWalk (p1 - p0).sign (q1 - q0).sign g (p1 - p0).natAbs { p := p0, q := q0, e := F64.zero } ++ [(p1, q1)]

theorem linePoints_of_x {x0 y0 x1 y1 : Nat} (h : ((y1 : Int) - y0).natAbs ≤ ((x1 : Int) - x0).natAbs) :
    linePoints x0 y0 x1 y1 = drivenLine (lineSlope ((x1 : Int) - x0) ((y1 : Int) - y0)) x0 y0 x1 y1 := by
  simp only [linePoints, drivenLine, if_pos h, sign_eq]

theorem linePoints_of_y {x0 y0 x1 y1 : Nat} (h : ((x1 : Int) - x0).natAbs < ((y1 : Int) - y0).natAbs) :
    linePoints x0 y0 x1 y1 =
      (drivenLine (lineSlope ((x1 : Int) - x0) ((y1 : Int) - y0)) y0 x0 y1 x1).map Prod.swap := by
  simp only [linePoints, drivenLine, if_neg h.not_ge, sign_eq, List.map_append, List.map_cons, Prod.swap,
    List.map_nil]

section
variable (g : F64) (p0 q0 p1 q1 : Int)

theorem length_drivenLine : (drivenLine g p0 q0 p1 q1).length = (p1 - p0).natAbs + 1 := by
  simp [drivenLine]

theorem drivenLine_getElem? {i : Nat} (hi : i < (p1 - p0).natAbs) :
    (drivenLine g p0 q0 p1 q1)[i]? =
      some (p0 + i * (p1 - p0).sign, q0 + (lineError g i).2 * (q1 - q0).sign) := by
  rw [drivenLine, List.getElem?_append_left (by simpa using hi), lineWalk_getElem? _ _ _ _ _ hi]

theorem drivenLine_getElem?_last : (drivenLine g p0 q0 p1 q1)[(p1 - p0).natAbs]? = some (p1, q1) := by
  simp [drivenLine]

/-- The driving coordinate, the endpoint's included: there it has made all its steps. -/
theorem fst_drivenLine :
    (drivenLine g p0 q0 p1 q1).map Prod.fst =
      (List.range ((p1 - p0).natAbs + 1)).map fun i : Nat => p0 + i * (p1 - p0).sign := by
  refine List.ext_getElem? fun i => ?_
  rcases lt_trichotomy i (p1 - p0).natAbs with hlt | rfl | hgt
  · simp [drivenLine_getElem? g p0 q0 p1 q1 hlt, List.getElem?_range (show i < (p1 - p0).natAbs + 1 by omega)]
  · have hend : p0 + ((p1 - p0).natAbs : Int) * (p1 - p0).sign = p1 := by
      rw [mul_comm, Int.sign_mul_natAbs]
      omega
    simp only [List.getElem?_map, drivenLine_getElem?_last, Option.map_some,
      List.getElem?_range (Nat.lt_succ_self _), hend]
  · rw [List.getElem?_eq_none (by simp [length_drivenLine]; omega), List.getElem?_eq_none (by simp; omega)]

theorem nodup_drivenLine : (drivenLine g p0 q0 p1 q1).Nodup := by
  refine List.Nodup.of_map Prod.fst ?_
  rw [fst_drivenLine]
  refine List.Nodup.map_on (fun i hi j hj h => ?_) List.nodup_range
  have hi := List.mem_range.1 hi
  have hj := List.mem_range.1 hj
  have hmul : (i : Int) * (p1 - p0).sign = j * (p1 - p0).sign := by omega
  rcases eq_or_ne (p1 - p0) 0 with hz | hz
  · simp only [hz, Int.natAbs_zero] at hi hj
    omega
  · exact_mod_cast mul_right_cancel₀ (mt Int.sign_eq_zero_iff_zero.1 hz) hmul

/-- Where the first coordinate drives, the first position is the start even of a line of one point. -/
theorem head?_drivenLine (h : (q1 - q0).natAbs ≤ (p1 - p0).natAbs) :
    (drivenLine g p0 q0 p1 q1).head? = some (p0, q0) := by
  rw [List.head?_eq_getElem?]
  rcases Nat.eq_zero_or_pos (p1 - p0).natAbs with hz | hpos
  · have hlast := drivenLine_getElem?_last g p0 q0 p1 q1
    rw [hz] at hlast
    rw [hlast, show p1 = p0 by omega, show q1 = q0 by omega]
  · rw [drivenLine_getElem? g p0 q0 p1 q1 hpos]
    simp [lineError]

theorem getLast?_drivenLine : (drivenLine g p0 q0 p1 q1).getLast? = some (p1, q1) := by
  simp [drivenLine]

theorem fst_drivenLine_getElem? {i : Nat} (hi : i ≤ (p1 - p0).natAbs) :
    ((drivenLine g p0 q0 p1 q1).map Prod.fst)[i]? = some (p0 + i * (p1 - p0).sign) := by
  rw [fst_drivenLine, List.getElem?_map, List.getElem?_range (by omega)]
  rfl

theorem snd_drivenLine_getElem? {i : Nat} (hi : i < (p1 - p0).natAbs) :
    ((drivenLine g p0 q0 p1 q1).map Prod.snd)[i]? = some (q0 + (lineError g i).2 * (q1 - q0).sign) := by
  rw [List.getElem?_map, drivenLine_getElem? g p0 q0 p1 q1 hi]
  rfl

end

/-- Settles O37: the facts about the driving and the minor coordinate, on either axis. -/
theorem lineVisitsEachStepOnce : Obligations.LineVisitsEachStepOnce := by
  intro x0 y0 x1 y1
  dsimp only
  rcases Nat.lt_or_ge ((x1 : Int) - x0).natAbs ((y1 : Int) - y0).natAbs with hy | hx
  · rw [linePoints_of_y hy]
    generalize lineSlope ((x1 : Int) - x0) ((y1 : Int) - y0) = g
    refine ⟨?_, ?_, ?_, ?_, fun h => absurd h hy.not_ge, fun _ i hi => ?_, fun h => absurd h hy.not_ge,
      fun _ i hi => ?_⟩
    · rw [List.length_map, length_drivenLine, max_eq_right hy.le]
    · exact (nodup_drivenLine g _ _ _ _).map Prod.swap_injective
    · rw [List.getLast?_map, getLast?_drivenLine]
      rfl
    · rw [List.head?_map, head?_drivenLine g _ _ _ _ hy.le]
      rfl
    · rw [List.map_map]
      exact fst_drivenLine_getElem? g _ _ _ _ hi
    · rw [List.map_map]
      exact snd_drivenLine_getElem? g _ _ _ _ hi
  · rw [linePoints_of_x hx]
    generalize lineSlope ((x1 : Int) - x0) ((y1 : Int) - y0) = g
    refine ⟨?_, nodup_drivenLine g _ _ _ _, getLast?_drivenLine g _ _ _ _, head?_drivenLine g _ _ _ _ hx,
      fun _ i hi => fst_drivenLine_getElem? g _ _ _ _ hi, fun h => absurd hx h.not_ge,
      fun _ i hi => snd_drivenLine_getElem? g _ _ _ _ hi, fun h => absurd hx h.not_ge⟩
    rw [length_drivenLine, max_eq_left hx]

/-! ## Bounds of a rounding (R137) -/

/-- A magnitude of 53 bits that bounds the exact value bounds the rounded one. -/
theorem roundMag_le {num den r : Nat} (hden : 0 < den) (hr : F64.Rep r) (h : num ≤ r * den) :
    roundMag num den ≤ r := by
  by_contra hgt
  have hmid := (roundMag_below hden hr (not_le.1 hgt)).1
  have hlt : (r + r + 1) * den ≤ (r + roundMag num den) * den := Nat.mul_le_mul_right _ (by omega)
  rw [add_mul, add_mul] at hlt
  omega

/-- A rounding adds at most half of the last bit: 2^-53 of the value, or half a unit. -/
theorem roundMag_upper {num den : Nat} (hden : 0 < den) :
    roundMag num den * den * 2 ^ 53 ≤ num * 2 ^ 53 + num + den * 2 ^ 52 := by
  obtain ⟨-, hhalf, -⟩ := roundDiv_close (num := num) (d := den * 2 ^ roundBinade num den) (by positivity)
  have hbit : 2 ^ 52 * 2 ^ roundBinade num den * den ≤ num + den * 2 ^ 52 := by
    by_cases hk : roundBinade num den = 0
    · rw [hk, pow_zero]
      omega
    · have := binade_start_le hden hk
      omega
  calc roundMag num den * den * 2 ^ 53
      = 2 ^ 52 * (2 * roundSig num den * (den * 2 ^ roundBinade num den)) := by rw [roundMag_eq]; ring
    _ ≤ 2 ^ 52 * (2 * num + den * 2 ^ roundBinade num den) := Nat.mul_le_mul_left _ hhalf
    _ = num * 2 ^ 53 + 2 ^ 52 * 2 ^ roundBinade num den * den := by ring
    _ ≤ _ := by omega

theorem F64.abs_round (neg : Bool) (num den : Nat) : (F64.round neg num den).abs = F64.round false num den := by
  unfold F64.round
  generalize F64.limit = l
  exact (apply_ite F64.abs _ _ _).trans rfl

theorem F64.rep_unit : F64.Rep F64.unit := one_mul F64.unit ▸ F64.rep_mul_unit (by norm_num)

/-- A magnitude up to 2.0 stays finite under rounding. -/
theorem F64.round_of_le_two {num den : Nat} (hden : 0 < den) (h : num ≤ 2 * F64.unit * den) :
    F64.round false num den = .fin false (roundMag num den) ∧ roundMag num den ≤ 2 * F64.unit := by
  have hle := roundMag_le hden (F64.rep_mul_unit (a := 2) (by norm_num)) h
  exact ⟨F64.round_of_roundMag rfl (hle.trans_lt (F64.mul_unit_lt_limit (by norm_num))), hle⟩

theorem F64.fin_lt_fin (p q : Nat) : (F64.fin false p).lt (.fin false q) = decide (p < q) := by
  simp only [F64.lt, F64.signedMag_false, Nat.cast_lt]

theorem F64.fin_le_fin (p q : Nat) : (F64.fin false p).le (.fin false q) = true ↔ p ≤ q := by
  rw [F64.le, F64.fin_lt_fin, Bool.or_eq_true, decide_eq_true_iff, le_iff_lt_or_eq]
  simp only [F64.eq, F64.signedMag_false, beq_iff_eq, Nat.cast_inj]

theorem F64.one_eq : F64.one = .fin false F64.unit := rfl

theorem F64.fin_ge_one (p : Nat) : (F64.fin false p).ge F64.one = true ↔ F64.unit ≤ p := by
  rw [F64.ge, F64.one_eq, F64.fin_le_fin]

/-! ## The slope (R245) -/

theorem F64.ofInt_of_lt {i : Int} (h0 : i ≠ 0) (hi : i.natAbs < 2 ^ 17) :
    F64.ofInt i = .fin (decide (i < 0)) (i.natAbs * F64.unit) := by
  have hround : roundMag (i.natAbs * F64.unit) 1 = i.natAbs * F64.unit :=
    roundMag_of_rep one_pos (F64.rep_mul_unit (by omega)) (mul_one _).symm
  rw [F64.ofInt, if_neg h0, F64.round_of_roundMag hround (F64.mul_unit_lt_limit hi)]

theorem F64.abs_ofInt_div {i j : Int} (hi0 : i ≠ 0) (hj0 : j ≠ 0) (hi : i.natAbs < 2 ^ 17)
    (hj : j.natAbs < 2 ^ 17) :
    ((F64.ofInt i).div (F64.ofInt j)).abs =
      F64.round false (i.natAbs * F64.unit * F64.unit) (j.natAbs * F64.unit) := by
  have hden : j.natAbs * F64.unit ≠ 0 := mul_ne_zero (Int.natAbs_ne_zero.2 hj0) F64.unit_pos.ne'
  rw [F64.ofInt_of_lt hi0 hi, F64.ofInt_of_lt hj0 hj, F64.div_fin _ _ _ _ hden, F64.abs_round]

section
variable {dx dy : Int}

theorem lineSlope_of_zero (h : dx = 0 ∨ dy = 0) : lineSlope dx dy = .fin false 0 := if_pos h

/-- The slope is one rounding of the quotient of the integers. -/
theorem lineSlope_of_ne_zero (hx0 : dx ≠ 0) (hy0 : dy ≠ 0) (hx : dx.natAbs ≤ 65535) (hy : dy.natAbs ≤ 65535) :
    lineSlope dx dy =
      F64.round false (min dx.natAbs dy.natAbs * F64.unit * F64.unit) (max dx.natAbs dy.natAbs * F64.unit) := by
  rw [lineSlope, if_neg (not_or.2 ⟨hx0, hy0⟩)]
  split_ifs with hle
  · rw [F64.abs_ofInt_div hy0 hx0 (by omega) (by omega), min_eq_right hle, max_eq_left hle]
  · have hle := (not_le.1 hle).le
    rw [F64.abs_ofInt_div hx0 hy0 (by omega) (by omega), min_eq_left hle, max_eq_right hle]

/-- The slope as a magnitude: at most 1.0, and above the quotient by no more than its rounding. -/
theorem lineSlope_eq_fin (hx : dx.natAbs ≤ 65535) (hy : dy.natAbs ≤ 65535) :
    ∃ q, lineSlope dx dy = .fin false q ∧ q ≤ F64.unit ∧
      q * max dx.natAbs dy.natAbs * 2 ^ 53 ≤
        min dx.natAbs dy.natAbs * F64.unit * (2 ^ 53 + 1) + max dx.natAbs dy.natAbs * 2 ^ 52 := by
  by_cases h0 : dx = 0 ∨ dy = 0
  · exact ⟨0, lineSlope_of_zero h0, Nat.zero_le _, by rw [zero_mul, zero_mul]; exact Nat.zero_le _⟩
  · obtain ⟨hx0, hy0⟩ := not_or.1 h0
    have hmax : 0 < max dx.natAbs dy.natAbs := lt_max_of_lt_left (Int.natAbs_pos.2 hx0)
    have hminmax : min dx.natAbs dy.natAbs ≤ max dx.natAbs dy.natAbs := min_le_max
    rw [lineSlope_of_ne_zero hx0 hy0 hx hy]
    have hupos := F64.unit_pos
    have hurep := F64.rep_unit
    generalize min dx.natAbs dy.natAbs = a at *
    generalize max dx.natAbs dy.natAbs = b at *
    have hden : 0 < b * F64.unit := Nat.mul_pos hmax hupos
    have hnum : a * F64.unit * F64.unit ≤ F64.unit * (b * F64.unit) := by
      calc a * F64.unit * F64.unit ≤ b * F64.unit * F64.unit :=
            Nat.mul_le_mul_right _ (Nat.mul_le_mul_right _ hminmax)
        _ = _ := by ring
    have hle := roundMag_le hden hurep hnum
    refine ⟨_, (F64.round_of_le_two hden (hnum.trans (Nat.mul_le_mul_right _ (by omega)))).1, hle, ?_⟩
    have hupper := roundMag_upper (num := a * F64.unit * F64.unit) hden
    generalize F64.unit = u at *
    refine Nat.le_of_mul_le_mul_right ?_ hupos
    calc _ = roundMag (a * u * u) (b * u) * (b * u) * 2 ^ 53 := by ring
      _ ≤ a * u * u * 2 ^ 53 + a * u * u + b * u * 2 ^ 52 := hupper
      _ = _ := by ring

end

/-- Settles O38: the slope is one rounding of the quotient, and 1.0 bounds what is rounded. -/
theorem lineSlopeIsRoundedQuotient : Obligations.LineSlopeIsRoundedQuotient := by
  intro dx dy hx hy
  refine ⟨lineSlope_of_zero, fun hx0 hy0 => ?_, ?_⟩
  · rw [lineSlope_of_ne_zero hx0 hy0 hx hy, ← Nat.cast_min, ← Nat.cast_max]
    have hmax : 0 < max dx.natAbs dy.natAbs := lt_max_of_lt_left (Int.natAbs_pos.2 hx0)
    generalize max dx.natAbs dy.natAbs = b at *
    generalize min dx.natAbs dy.natAbs = a
    have hquot : (0 : ℚ) ≤ a / b := by positivity
    refine F64.rounded_round (Nat.mul_pos hmax F64.unit_pos) (fun _ => ?_) ?_
    · simp [hquot.not_gt]
    · have hb : (b : ℚ) ≠ 0 := Nat.cast_ne_zero.2 hmax.ne'
      have hu : (F64.unit : ℚ) ≠ 0 := Nat.cast_ne_zero.2 F64.unit_pos.ne'
      rw [abs_of_nonneg hquot, ← F64.cast_unit, Nat.cast_mul, Nat.cast_mul, Nat.cast_mul]
      field_simp
  · obtain ⟨q, hq, hle, -⟩ := lineSlope_eq_fin hx hy
    rw [hq]
    exact ⟨(F64.fin_le_fin 0 q).2 (Nat.zero_le q), (F64.fin_le_fin q F64.unit).2 hle⟩

/-! ## The accumulated error (R246) -/

theorem F64.add_false (p q : Nat) : (F64.fin false p).add (.fin false q) = F64.round false (p + q) 1 := by
  have hneg : ¬ ((p : Int) + q < 0) := by omega
  rw [F64.add_fin, F64.signedMag_false, F64.signedMag_false, decide_eq_false hneg, Bool.and_self, ite_self]
  rfl

theorem F64.sub_one_of_le {p : Nat} (h : F64.unit ≤ p) :
    (F64.fin false p).sub F64.one = F64.round false (p - F64.unit) 1 := by
  have hneg : ¬ ((p : Int) + -(F64.unit : Int) < 0) := by omega
  have habs : ((p : Int) + -(F64.unit : Int)).natAbs = p - F64.unit := by omega
  have hone : F64.one.neg = .fin true F64.unit := rfl
  rw [F64.sub, hone, F64.add_fin, F64.signedMag_false, F64.signedMag_true, habs, decide_eq_false hneg,
    Bool.and_true, ite_self]

theorem pow_52_le_unit : 2 ^ 52 ≤ F64.unit := by
  rw [F64.unit]
  exact pow_le_pow_right₀ one_le_two (by norm_num)

/-- The error lies between 0.0 and 1.0, and the whole of what the iterations have added exceeds the exact sum by at
most a few roundings of numbers up to 2.0 each. -/
theorem lineError_bounds {q : Nat} (hq : q ≤ F64.unit) (i : Nat) :
    ∃ p, (lineError (.fin false q) i).1 = .fin false p ∧ p ≤ F64.unit ∧
      (p + (lineError (.fin false q) i).2 * F64.unit) * 2 ^ 53 ≤ i * (q * 2 ^ 53 + 5 * F64.unit) := by
  induction i with
  | zero => exact ⟨0, rfl, Nat.zero_le _, by simp [lineError]⟩
  | succ i ih =>
    obtain ⟨p, hp, hple, hsum⟩ := ih
    have hu := pow_52_le_unit
    have hadd : p + q ≤ 2 * F64.unit * 1 := by omega
    obtain ⟨hround, hs⟩ := F64.round_of_le_two (den := 1) one_pos hadd
    have hs53 := roundMag_upper (num := p + q) one_pos
    simp only [lineError, hp, F64.add_false, hround, F64.fin_ge_one]
    generalize roundMag (p + q) 1 = s at *
    split_ifs with hstep
    all_goals dsimp only
    · have hsub : s - F64.unit ≤ F64.unit * 1 := by omega
      have hround' := (F64.round_of_le_two (den := 1) one_pos (hsub.trans (by omega))).1
      have h53 := roundMag_upper (num := s - F64.unit) one_pos
      refine ⟨roundMag (s - F64.unit) 1, (F64.sub_one_of_le hstep).trans hround',
        roundMag_le (den := 1) one_pos F64.rep_unit hsub, ?_⟩
      have hd := Nat.sub_add_cancel hstep
      generalize s - F64.unit = d at *
      generalize F64.unit = u at *
      linarith
    · refine ⟨s, rfl, by omega, ?_⟩
      generalize F64.unit = u at *
      linarith

/-- The minor coordinate never makes more steps than its difference has: one step too many would need a whole 1.0
more than the exact sum, and up to 65535 iterations round by far less. -/
theorem lineError_count_le {dx dy : Int} (hx : dx.natAbs ≤ 65535) (hy : dy.natAbs ≤ 65535) {i : Nat}
    (hi : i < max dx.natAbs dy.natAbs) :
    (lineError (lineSlope dx dy) i).2 ≤ min dx.natAbs dy.natAbs := by
  obtain ⟨q, hq, hle, hslope⟩ := lineSlope_eq_fin hx hy
  have hmax : max dx.natAbs dy.natAbs ≤ 65535 := max_le hx hy
  have hminmax : min dx.natAbs dy.natAbs ≤ max dx.natAbs dy.natAbs := min_le_max
  obtain ⟨p, -, -, hsum⟩ := lineError_bounds hle i
  rw [hq]
  generalize (lineError (F64.fin false q) i).2 = c at *
  generalize max dx.natAbs dy.natAbs = n at *
  generalize min dx.natAbs dy.natAbs = m at *
  have hupos := F64.unit_pos
  have hu := pow_52_le_unit
  generalize F64.unit = u at *
  by_contra hgt
  have hn : n * 2 ^ 52 ≤ n * u := Nat.mul_le_mul_left n hu
  have hchain : (m + 1) * u * 2 ^ 53 * n ≤ n * u * (m * (2 ^ 53 + 1) + 6 * n) := by
    calc (m + 1) * u * 2 ^ 53 * n ≤ (p + c * u) * 2 ^ 53 * n := by
          have : (m + 1) * u ≤ c * u := Nat.mul_le_mul_right u (by omega)
          exact Nat.mul_le_mul_right n (Nat.mul_le_mul_right _ (by omega))
      _ ≤ i * (q * 2 ^ 53 + 5 * u) * n := Nat.mul_le_mul_right n hsum
      _ ≤ n * (q * 2 ^ 53 + 5 * u) * n := Nat.mul_le_mul_right n (Nat.mul_le_mul_right _ hi.le)
      _ = n * (q * n * 2 ^ 53 + 5 * u * n) := by ring
      _ ≤ n * (m * u * (2 ^ 53 + 1) + n * u + 5 * u * n) := Nat.mul_le_mul_left n (by linarith only [hslope, hn])
      _ = _ := by ring
  have hcancel : (m + 1) * 2 ^ 53 ≤ m * (2 ^ 53 + 1) + 6 * n := by
    refine Nat.le_of_mul_le_mul_left ?_ (Nat.mul_pos (show 0 < n by omega) hupos)
    calc _ = (m + 1) * u * 2 ^ 53 * n := by ring
      _ ≤ _ := hchain
  omega

/-! ## Between the endpoints -/

/-- A coordinate that has made at most as many steps towards its end as the difference has. -/
theorem steps_between {a b : Int} {c : Nat} (h : c ≤ (b - a).natAbs) :
    min a b ≤ a + c * (b - a).sign ∧ a + c * (b - a).sign ≤ max a b := by
  rcases lt_trichotomy (b - a) 0 with hneg | hz | hpos
  · rw [Int.sign_eq_neg_one_of_neg hneg]
    omega
  · rw [hz, Int.sign_zero]
    omega
  · rw [Int.sign_eq_one_of_pos hpos]
    omega

/-- Every position of a line lies in the box of its endpoints where the minor coordinate makes no step too many. -/
theorem drivenLine_between {g : F64} {p0 q0 p1 q1 : Int}
    (hg : ∀ i < (p1 - p0).natAbs, (lineError g i).2 ≤ (q1 - q0).natAbs) :
    ∀ p ∈ drivenLine g p0 q0 p1 q1,
      (min p0 p1 ≤ p.1 ∧ p.1 ≤ max p0 p1) ∧ min q0 q1 ≤ p.2 ∧ p.2 ≤ max q0 q1 := by
  intro p hp
  obtain ⟨i, hi⟩ := List.mem_iff_getElem?.1 hp
  have hlen : i < (p1 - p0).natAbs + 1 := by
    rw [← length_drivenLine g p0 q0 p1 q1]
    exact (List.getElem?_eq_some_iff.1 hi).1
  rcases Nat.lt_succ_iff_lt_or_eq.1 hlen with hlt | rfl
  · rw [drivenLine_getElem? g p0 q0 p1 q1 hlt] at hi
    cases hi
    exact ⟨steps_between hlt.le, steps_between (hg i hlt)⟩
  · rw [drivenLine_getElem?_last] at hi
    cases hi
    exact ⟨⟨min_le_right _ _, le_max_right _ _⟩, min_le_right _ _, le_max_right _ _⟩

/-- Settles O39: both coordinates make at most as many steps as their differences have. -/
theorem lineStaysBetweenEndpoints : Obligations.LineStaysBetweenEndpoints := by
  intro x0 y0 x1 y1 hx0 hy0 hx1 hy1 p hp
  have hdx : ((x1 : Int) - x0).natAbs ≤ 65535 := by omega
  have hdy : ((y1 : Int) - y0).natAbs ≤ 65535 := by omega
  have hcount {i : Nat} := lineError_count_le hdx hdy (i := i)
  push_cast
  rcases Nat.lt_or_ge ((x1 : Int) - x0).natAbs ((y1 : Int) - y0).natAbs with hy | hx
  · rw [max_eq_right hy.le, min_eq_left hy.le] at hcount
    rw [linePoints_of_y hy] at hp
    obtain ⟨p', hp', rfl⟩ := List.mem_map.1 hp
    obtain ⟨⟨hp0, hp1⟩, hq⟩ := drivenLine_between (fun i hi => hcount hi) p' hp'
    exact ⟨hq.1, hq.2, hp0, hp1⟩
  · rw [max_eq_left hx, min_eq_right hx] at hcount
    rw [linePoints_of_x hx] at hp
    obtain ⟨⟨hp0, hp1⟩, hq⟩ := drivenLine_between (fun i hi => hcount hi) p hp
    exact ⟨hp0, hp1, hq⟩

/-! ## Plotting (R244) -/

section
variable {t : Target} {c : Word} {m : PixMem}

theorem plot_wf (h : m.wf) (p : Int × Int) : (plot t c m p).wf := by
  rcases plot_cases t c m p with ⟨-, e⟩ | ⟨-, e⟩
  · rw [e]
    exact Memory.write_wf h _ _
  · rwa [e]

/-- A plot colours the pixel at its position. -/
theorem read_plot (h : m.wf) (p : Int × Int) {x y : Nat} (hx : x < t.w) (hy : y < t.h) :
    (plot t c m p).read (linearIndex t.w x y) =
      if ((x : Int), (y : Int)) = p then c else m.read (linearIndex t.w x y) := by
  rcases plot_cases t c m p with ⟨hp, e⟩ | ⟨hp, e⟩
  · obtain ⟨px, py⟩ := p
    obtain ⟨hx0, hxw, hy0, hyh⟩ := hp
    have hiff : linearIndex t.w x y = linearIndex t.w px.toNat py.toNat ↔ ((x : Int), (y : Int)) = (px, py) := by
      constructor
      · intro heq
        obtain ⟨ex, ey⟩ := linearIndex_inj hx (by omega) heq
        simp only [Prod.mk.injEq]
        omega
      · rintro ⟨rfl, rfl⟩
        rfl
    rw [e, (Memory.write_spec h _ _).2]
    exact if_congr hiff rfl rfl
  · rw [e, if_neg]
    rintro rfl
    exact hp ⟨by simp, by simpa using hx, by simp, by simpa using hy⟩

theorem read_plot_outside (p : Int × Int) {i : Nat} (hi : t.w * t.h ≤ i) : (plot t c m p).read i = m.read i := by
  rcases plot_cases t c m p with ⟨hp, e⟩ | ⟨-, e⟩
  · have hlt := Target.index_lt hp
    rw [e, Memory.read_write_ne m c (by omega)]
  · rw [e]

theorem plots_canonical (h : m.wf) (ps : List (Int × Int)) : (ps.foldl (plot t c) m).wf :=
  List.foldlRecOn (motive := Memory.wf) ps _ h fun _ hm p _ => plot_wf hm p

/-- Plotting colours the pixels at its positions. -/
theorem read_plots (h : m.wf) (ps : List (Int × Int)) {x y : Nat} (hx : x < t.w) (hy : y < t.h) :
    (ps.foldl (plot t c) m).read (linearIndex t.w x y) =
      if ((x : Int), (y : Int)) ∈ ps then c else m.read (linearIndex t.w x y) := by
  induction ps generalizing m with
  | nil => rfl
  | cons p ps ih =>
    rw [List.foldl_cons, ih (plot_wf h p), read_plot h p hx hy]
    by_cases hp : ((x : Int), (y : Int)) = p <;> simp [hp]

theorem read_plots_outside (ps : List (Int × Int)) {i : Nat} (hi : t.w * t.h ≤ i) :
    (ps.foldl (plot t c) m).read i = m.read i :=
  List.foldlRecOn (motive := fun m' : PixMem => m'.read i = m.read i) ps _ rfl
    fun _ hm p _ => (read_plot_outside p hi).trans hm

/-- What LINE and an outline make of the pixel memory. -/
theorem plots_spec (h : m.wf) (ps : List (Int × Int)) :
    (ps.foldl (plot t c) m).wf ∧
      (∀ x y : Nat, x < t.w → y < t.h →
        (((x : Int), (y : Int)) ∈ ps → (ps.foldl (plot t c) m).read (y * t.w + x) = c) ∧
        (((x : Int), (y : Int)) ∉ ps → (ps.foldl (plot t c) m).read (y * t.w + x) = m.read (y * t.w + x))) ∧
      ∀ i, t.w * t.h ≤ i → (ps.foldl (plot t c) m).read i = m.read i :=
  ⟨plots_canonical h ps, fun _ _ hx hy => ⟨fun hp => (read_plots h ps hx hy).trans (if_pos hp),
    fun hp => (read_plots h ps hx hy).trans (if_neg hp)⟩, fun _ hi => read_plots_outside ps hi⟩

end

/-! ## LINE (R247) -/

theorem clearReport_setPix (s : State) (k : Slot) (m : PixMem) :
    s.clearReport.setPix k m = s.okFrom.setImg k { s.img k with pix := m } := by cases k <;> rfl

/-- Settles O36: LINE is one run of plots over the pixel memory. -/
theorem lineColorsVisitedPixels : Obligations.LineColorsVisitedPixels := by
  refine ⟨slotCommand_word (op := 0x31#8) rfl, fun k s => ⟨fun hv => ?_, fun hv hwf => ?_⟩⟩
  · rw [exec_line_failed (x := .slot) (by simp [State.targetCheck, hv]),
      slotCommand_raiseIllegal (op := 0x31#8) rfl]
    rfl
  · refine ⟨_, ?_, plots_spec (t := s.target k) hwf _⟩
    rw [exec_line_valid hv, clearReport_setPix]
    rfl

/-! ## Outlines (R249) -/

/-- The three segments of an outline are one run of plots. -/
theorem outline_eq_plots (t : Target) (v : Triangle) (m : PixMem) :
    outline t v m = (outlinePoints v).foldl (plot t Config.outlineColor) m := by
  simp only [outline, drawLine, outlinePoints, List.foldl_append]

theorem fillTriangle_of_degenerate {t : Target} {f : Fill} (h : Degenerate t.w t.h f.tri) (c : Canvas) :
    fillTriangle t f c = { c with pix := (outlinePoints f.tri).foldl (plot t Config.outlineColor) c.pix } := by
  rw [fillTriangle, if_pos ((degenerate_iff t f.tri).2 h), outline_eq_plots]

theorem setCanvas_same_depth (s : State) (k : Slot) (m : PixMem) :
    s.clearReport.setCanvas k { s.canvas k with pix := m } = s.clearReport.setPix k m := by cases k <;> rfl

theorem exec_tri_degenerate {s : State} {k : Slot} {tex : Option Slot} {zen : Bool}
    (hcheck : s.fillCheck k tex zen = none) (h : Degenerate (s.imgW k) (s.imgH k) s.argTriangle) :
    exec (.tri k tex zen) s = .next (s.okFrom.setImg k { s.img k with
      pix := (outlinePoints s.argTriangle).foldl (plot (s.target k) Config.outlineColor) (s.img k).pix }) := by
  have hfill : fillTriangle (s.target k) (s.triFill tex zen) (s.canvas k) = { s.canvas k with
      pix := (outlinePoints s.argTriangle).foldl (plot (s.target k) Config.outlineColor) (s.img k).pix } :=
    fillTriangle_of_degenerate (f := s.triFill tex zen) h (s.canvas k)
  rw [exec_tri_passed hcheck, hfill, setCanvas_same_depth, clearReport_setPix]

/-- Settles O41: the outline is one run of plots over its three segments. -/
theorem degenerateTriDrawsOutline : Obligations.DegenerateTriDrawsOutline := by
  intro k tex zen s hcheck hwf w h ps hdeg
  exact ⟨_, exec_tri_degenerate (rasterFailure_fill_eq_none.1 hcheck) hdeg,
    plots_spec (t := s.target k) (c := Config.outlineColor) hwf ps⟩

end Sys2Proof.Machine
end

section
/-! The fill of a triangle (44_rasterizer.md R250 to R262): each pixel of the box is decided by its own colour and
depth alone, and TRI does to the image what that says. -/

namespace Sys2Proof.Machine

/-! ## One pixel -/

/-- An element of the target with the element of the depth buffer at the same index. -/
structure PixelCell where
  color : Word
  depth : Dword

/-- The two elements of a canvas at an index. -/
def Canvas.cell (c : Canvas) (i : Nat) : PixelCell := { color := c.pix.read i, depth := c.depth.read i }

/-- Both memories of a canvas are in canonical form. -/
structure Canvas.Wf (c : Canvas) : Prop where
  pix : c.pix.wf
  depth : c.depth.wf

theorem Canvas.ext_cell {c d : Canvas} (hc : c.Wf) (hd : d.Wf) (h : ∀ i, c.cell i = d.cell i) : c = d := by
  obtain ⟨p, z⟩ := c
  obtain ⟨p', z'⟩ := d
  simp only [Canvas.cell, PixelCell.mk.injEq] at h
  exact Canvas.mk.injEq .. ▸ ⟨Memory.ext_read hc.pix hd.pix fun i => (h i).1,
    Memory.ext_read hc.depth hd.depth fun i => (h i).2⟩

/-- What the scan makes of the two elements of the pixel (x, y) (R253 to R260). -/
def fragmentCell (f : Fill) (x y : Nat) (e : PixelCell) : PixelCell :=
  match fragment f (inverse (edges f.tri)) e.depth x y with
  | none => e
  | some col => { color := col, depth := if f.zen then (pixelDepth f.tri x y).toBits else e.depth }

theorem fragmentCell_of_none {f : Fill} {x y : Nat} {e : PixelCell}
    (h : fragment f (inverse (edges f.tri)) e.depth x y = none) : fragmentCell f x y e = e := by
  rw [fragmentCell, h]

theorem fragmentCell_of_some {f : Fill} {x y : Nat} {e : PixelCell} {col : Word}
    (h : fragment f (inverse (edges f.tri)) e.depth x y = some col) :
    fragmentCell f x y e =
      { color := col, depth := if f.zen then (pixelDepth f.tri x y).toBits else e.depth } := by
  rw [fragmentCell, h]

/-- One step of the scan (R261). -/
abbrev scanPixel (t : Target) (f : Fill) : Canvas → Nat × Nat → Canvas := fillPixel t f (inverse (edges f.tri))

section
variable {t : Target} {f : Fill} {c : Canvas}

theorem scanPixel_wf (h : c.Wf) (p : Nat × Nat) : (scanPixel t f c p).Wf := by
  rcases fillPixel_cases t f (inverse (edges f.tri)) c p with ⟨-, e⟩ | ⟨col, -, e⟩
  · rwa [scanPixel, e]
  · rw [scanPixel, e]
    refine ⟨Memory.write_wf h.pix _ _, ?_⟩
    dsimp only
    split_ifs
    · exact Memory.write_wf h.depth _ _
    · exact h.depth

/-- A step of the scan changes the elements of its own pixel, as their values before the step say. -/
theorem cell_scanPixel (h : c.Wf) (p : Nat × Nat) (i : Nat) :
    (scanPixel t f c p).cell i =
      if i = linearIndex t.w p.1 p.2 then fragmentCell f p.1 p.2 (c.cell i) else c.cell i := by
  rcases fillPixel_cases t f (inverse (edges f.tri)) c p with ⟨hnone, e⟩ | ⟨col, hsome, e⟩
  · rw [scanPixel, e]
    rcases eq_or_ne i (linearIndex t.w p.1 p.2) with rfl | hi
    · rw [if_pos rfl, fragmentCell_of_none (e := c.cell (linearIndex t.w p.1 p.2)) hnone]
    · rw [if_neg hi]
  · rw [scanPixel, e]
    rcases eq_or_ne i (linearIndex t.w p.1 p.2) with rfl | hi
    · rw [if_pos rfl, fragmentCell_of_some (e := c.cell (linearIndex t.w p.1 p.2)) hsome, Canvas.cell,
        PixelCell.mk.injEq]
      refine ⟨Memory.read_write_self h.pix _ _, ?_⟩
      dsimp only
      split_ifs
      · exact Memory.read_write_self h.depth _ _
      · rfl
    · rw [if_neg hi, Canvas.cell, Canvas.cell, PixelCell.mk.injEq]
      refine ⟨Memory.read_write_ne _ _ hi, ?_⟩
      dsimp only
      split_ifs
      · exact Memory.read_write_ne _ _ hi
      · rfl

theorem scan_wf (ps : List (Nat × Nat)) (h : c.Wf) : (ps.foldl (scanPixel t f) c).Wf :=
  List.foldlRecOn (motive := Canvas.Wf) ps _ h fun _ hc p _ => scanPixel_wf hc p

/-- The scan changes no pixel but those it visits. -/
theorem cell_scan_of_not_mem (ps : List (Nat × Nat)) (h : c.Wf) {i : Nat}
    (hi : ∀ p ∈ ps, i ≠ linearIndex t.w p.1 p.2) : (ps.foldl (scanPixel t f) c).cell i = c.cell i := by
  induction ps generalizing c with
  | nil => rfl
  | cons p ps ih =>
    obtain ⟨hp, hps⟩ := List.forall_mem_cons.1 hi
    rw [List.foldl_cons, ih (scanPixel_wf h p) hps, cell_scanPixel h, if_neg hp]

/-- A pixel that the scan visits once is decided by the elements it had at the start. -/
theorem cell_scan_of_mem {ps : List (Nat × Nat)} (h : c.Wf) (hnodup : ps.Nodup) (hin : ∀ p ∈ ps, p.1 < t.w)
    {x y : Nat} (hxy : (x, y) ∈ ps) :
    (ps.foldl (scanPixel t f) c).cell (linearIndex t.w x y) =
      fragmentCell f x y (c.cell (linearIndex t.w x y)) := by
  induction ps generalizing c with
  | nil => cases hxy
  | cons p ps ih =>
    obtain ⟨hp, hps⟩ := List.forall_mem_cons.1 hin
    obtain ⟨hnot, hnodup⟩ := List.nodup_cons.1 hnodup
    have hne (q : Nat × Nat) (hq : q ∈ ps) : linearIndex t.w p.1 p.2 ≠ linearIndex t.w q.1 q.2 := fun e => by
      obtain ⟨e1, e2⟩ := linearIndex_inj hp (hps q hq) e
      exact hnot (Prod.ext e1 e2 ▸ hq)
    rcases List.mem_cons.1 hxy with rfl | hmem
    · rw [List.foldl_cons, cell_scan_of_not_mem ps (scanPixel_wf h _) hne, cell_scanPixel h, if_pos rfl]
    · rw [List.foldl_cons, ih (scanPixel_wf h _) hnodup hps hmem, cell_scanPixel h,
        if_neg (hne (x, y) hmem).symm]

/-! ## The whole fill -/

/-- An image without pixels makes every triangle degenerate. -/
theorem pos_of_not_degenerate {w h : Nat} {v : Triangle} (hd : ¬ Degenerate w h v) : 0 < w ∧ 0 < h := by
  simp only [Degenerate, boxLow_eq, boxHigh_eq, Int.natCast_inj, not_or] at hd
  omega

theorem fillTriangle_of_not_degenerate (hd : ¬ Degenerate t.w t.h f.tri) :
    fillTriangle t f c = (boxPixels (boundingBox t f.tri)).foldl (scanPixel t f) c := by
  rw [fillTriangle, if_neg (mt (degenerate_iff t f.tri).1 hd)]

theorem boxPixels_inside (hd : ¬ Degenerate t.w t.h f.tri) {p : Nat × Nat}
    (hp : p ∈ boxPixels (boundingBox t f.tri)) : p.1 < t.w ∧ p.2 < t.h := by
  obtain ⟨hw, hh⟩ := pos_of_not_degenerate hd
  obtain ⟨-, hx, -, hy⟩ := mem_boxPixels.1 hp
  obtain ⟨-, hxmax, -, hymax⟩ := boundingBox_le hw hh f.tri
  omega

/-- Filling a triangle keeps the canonical form. -/
theorem fillTriangle_wf (h : c.Wf) : (fillTriangle t f c).Wf := by
  by_cases hd : Degenerate t.w t.h f.tri
  · rw [fillTriangle_of_degenerate hd]
    exact ⟨plots_canonical h.pix _, h.depth⟩
  · rw [fillTriangle_of_not_degenerate hd]
    exact scan_wf _ h

/-- A pixel of the box is decided by its own elements alone. -/
theorem cell_fillTriangle_of_mem (h : c.Wf) (hd : ¬ Degenerate t.w t.h f.tri) {x y : Nat}
    (hxy : (x, y) ∈ boxPixels (boundingBox t f.tri)) :
    (fillTriangle t f c).cell (linearIndex t.w x y) = fragmentCell f x y (c.cell (linearIndex t.w x y)) := by
  rw [fillTriangle_of_not_degenerate hd]
  exact cell_scan_of_mem h (nodup_boxPixels _) (fun p hp => (boxPixels_inside hd hp).1) hxy

/-- No other element changes. -/
theorem cell_fillTriangle_of_not_mem (h : c.Wf) (hd : ¬ Degenerate t.w t.h f.tri) {i : Nat}
    (hi : ∀ p ∈ boxPixels (boundingBox t f.tri), i ≠ linearIndex t.w p.1 p.2) :
    (fillTriangle t f c).cell i = c.cell i := by
  rw [fillTriangle_of_not_degenerate hd]
  exact cell_scan_of_not_mem _ h hi

/-- An element outside the image is never changed. -/
theorem cell_fillTriangle_outside (h : c.Wf) {i : Nat} (hi : t.w * t.h ≤ i) :
    (fillTriangle t f c).cell i = c.cell i := by
  by_cases hd : Degenerate t.w t.h f.tri
  · rw [fillTriangle_of_degenerate hd, Canvas.cell, read_plots_outside _ hi]
    rfl
  · refine cell_fillTriangle_of_not_mem h hd fun p hp => ?_
    obtain ⟨hx, hy⟩ := boxPixels_inside hd hp
    have := linearIndex_lt hx hy
    omega

/-- Every element of a fill is as before, or is that of a pixel of the box. -/
theorem cell_fillTriangle_cases (h : c.Wf) (hd : ¬ Degenerate t.w t.h f.tri) (i : Nat) :
    (fillTriangle t f c).cell i = c.cell i ∨
      ∃ x y, (fillTriangle t f c).cell i = fragmentCell f x y (c.cell i) := by
  by_cases hi : ∀ p ∈ boxPixels (boundingBox t f.tri), i ≠ linearIndex t.w p.1 p.2
  · exact .inl (cell_fillTriangle_of_not_mem h hd hi)
  · push Not at hi
    obtain ⟨p, hp, rfl⟩ := hi
    exact .inr ⟨p.1, p.2, cell_fillTriangle_of_mem h hd hp⟩

end

/-! ## TRI (R262) -/

/-- The new state of TRI and FACE, field by field. -/
theorem clearReport_setCanvas (s : State) (k : Slot) (c : Canvas) :
    s.clearReport.setCanvas k c =
      ({ s.okFrom with zb := { s.zb with d := c.depth } } : State).setImg k { s.img k with pix := c.pix } := by
  cases k <;> rfl

section
variable {s : State} {k : Slot} {tex : Option Slot} {zen : Bool} {x y : Nat}

theorem canvas_wf (hpix : (s.img k).pix.wf) (hdepth : s.zb.d.wf) : (s.canvas k).Wf := ⟨hpix, hdepth⟩

/-- A pixel is accepted where the fill gives it a colour (R250 to R260). -/
theorem accepts_iff_fragment {col : Word} :
    s.Accepts k tex zen x y col ↔
      (x, y) ∈ boxPixels (boundingBox (s.target k) s.argTriangle) ∧
        fragment (s.triFill tex zen) (inverse (edges s.argTriangle))
          ((s.canvas k).cell (linearIndex (s.imgW k) x y)).depth x y = some col := accepts_iff

variable (hwf : (s.canvas k).Wf) (hd : ¬ Degenerate (s.imgW k) (s.imgH k) s.argTriangle)
include hwf hd

theorem cell_tri_of_accepts {col : Word} (h : s.Accepts k tex zen x y col) :
    (fillTriangle (s.target k) (s.triFill tex zen) (s.canvas k)).cell (linearIndex (s.imgW k) x y) =
      { color := col, depth := if zen then (pixelDepth s.argTriangle x y).toBits
          else s.zb.d.read (linearIndex (s.imgW k) x y) } := by
  obtain ⟨hbox, hcol⟩ := accepts_iff_fragment.1 h
  exact (cell_fillTriangle_of_mem (f := s.triFill tex zen) (t := s.target k) hwf hd hbox).trans
    (fragmentCell_of_some (f := s.triFill tex zen) hcol)

theorem cell_tri_of_not_accepts (hx : x < s.imgW k) (h : ∀ col, ¬ s.Accepts k tex zen x y col) :
    (fillTriangle (s.target k) (s.triFill tex zen) (s.canvas k)).cell (linearIndex (s.imgW k) x y) =
      (s.canvas k).cell (linearIndex (s.imgW k) x y) := by
  by_cases hbox : (x, y) ∈ boxPixels (boundingBox (s.target k) s.argTriangle)
  · refine (cell_fillTriangle_of_mem (f := s.triFill tex zen) (t := s.target k) hwf hd hbox).trans
      (fragmentCell_of_none (f := s.triFill tex zen) ?_)
    exact Option.eq_none_iff_forall_ne_some.2 fun col hcol => h col (accepts_iff_fragment.2 ⟨hbox, hcol⟩)
  · refine cell_fillTriangle_of_not_mem (f := s.triFill tex zen) (t := s.target k) hwf hd fun p hp heq => ?_
    obtain ⟨hpx, -⟩ := boxPixels_inside (f := s.triFill tex zen) (t := s.target k) hd hp
    obtain ⟨rfl, rfl⟩ := linearIndex_inj hx hpx heq
    exact hbox hp

end

/-- Settles O40: the scan decides each pixel of the box by the two elements it had at the start. -/
theorem triFillsAcceptedPixels : Obligations.TriFillsAcceptedPixels := by
  refine ⟨fun k tex zen => congrArg Code.cmd32 (encodeFill_eq_fillWord 0x32#8 k tex zen), ?_⟩
  intro k tex zen s _ hcheck hpix hdepth w h hd
  have hwf := canvas_wf hpix hdepth
  have hfill := fillTriangle_wf (t := s.target k) (f := s.triFill tex zen) hwf
  refine ⟨_, _, ?_, hfill.pix, hfill.depth, fun x y hx hy => ⟨fun col hcol => ?_, fun hnone => ?_⟩,
    fun i hi => ?_⟩
  · rw [exec_tri_passed (rasterFailure_fill_eq_none.1 hcheck), clearReport_setCanvas]
  · have hcell := cell_tri_of_accepts hwf hd hcol
    exact ⟨congrArg PixelCell.color hcell, congrArg PixelCell.depth hcell⟩
  · have hcell := cell_tri_of_not_accepts hwf hd hx hnone
    exact ⟨congrArg PixelCell.color hcell, congrArg PixelCell.depth hcell⟩
  · have hcell := cell_fillTriangle_outside (t := s.target k) (f := s.triFill tex zen) hwf hi
    exact ⟨congrArg PixelCell.color hcell, congrArg PixelCell.depth hcell⟩

/-! ## Depth (R257) -/

theorem F64.ok_weighted (k : Weights) (a b c : F64) : (weighted k a b c).Ok := F64.ok_add _ _

/-- A stored depth reads back as the depth that was interpolated. -/
theorem ofBits_pixelDepth (v : Triangle) (x y : Nat) :
    F64.ofBits (pixelDepth v x y).toBits = pixelDepth v x y := F64.ofBits_toBits (F64.ok_weighted _ _ _ _)

theorem F64.gt_irrefl (a : F64) : a.gt a = false := by
  cases a with
  | nan => rfl
  | inf n => cases n <;> rfl
  | fin n p => exact decide_eq_false (lt_irrefl _)

/-- A fragment under the depth test passes the three tests of R254, R257 and R259. -/
theorem fragment_zen_eq_some {f : Fill} (hz : f.zen = true) {stored : Dword} {x y : Nat} {col : Word} :
    fragment f (inverse (edges f.tri)) stored x y = some col ↔
      (pixelWeights f.tri x y).inside = true ∧ (pixelDepth f.tri x y).gt (F64.ofBits stored) = true ∧
        fragmentColor f (pixelWeights f.tri x y) = some col := by
  rw [fragment_eq_some, depthPasses, hz]
  exact Iff.rfl

/-- Under the depth test a pixel is left alone or its depth grows. -/
theorem fragmentCell_grows {f : Fill} (hz : f.zen = true) (x y : Nat) (e : PixelCell) :
    fragmentCell f x y e = e ∨
      (F64.ofBits (fragmentCell f x y e).depth).gt (F64.ofBits e.depth) = true := by
  cases h : fragment f (inverse (edges f.tri)) e.depth x y with
  | none => exact .inl (fragmentCell_of_none h)
  | some col =>
    obtain ⟨-, hgt, -⟩ := (fragment_zen_eq_some hz).1 h
    rw [fragmentCell_of_some h, hz]
    exact .inr ((ofBits_pixelDepth f.tri x y).symm ▸ hgt)

/-- Whether a fragment has a colour does not depend on the flat colour. -/
theorem fragmentColor_recolored {f : Fill} {w : Weights} (col : Word) (h : fragmentColor f w = none) :
    fragmentColor { f with color := col } w = none := by
  unfold fragmentColor at h ⊢
  cases htex : f.tex with
  | none =>
    rw [htex] at h
    cases h
  | some t =>
    rw [htex] at h
    exact h

/-- Drawn again in another flat colour a pixel stays as it is: its depth is not greater than itself. -/
theorem fragmentCell_redrawn {f : Fill} (hz : f.zen = true) (col : Word) (x y : Nat) (e : PixelCell) :
    fragmentCell { f with color := col } x y (fragmentCell f x y e) = fragmentCell f x y e := by
  refine fragmentCell_of_none (Option.eq_none_iff_forall_ne_some.2 fun col' hsome => ?_)
  obtain ⟨hin, hgt, hcol⟩ := (fragment_zen_eq_some (f := { f with color := col }) hz).1 hsome
  cases h : fragment f (inverse (edges f.tri)) e.depth x y with
  | none =>
    rw [fragmentCell_of_none h] at hgt
    cases hf : fragmentColor f (pixelWeights f.tri x y) with
    | none => exact Option.some_ne_none _ (hcol.symm.trans (fragmentColor_recolored col hf))
    | some c => exact Option.some_ne_none _ (((fragment_zen_eq_some hz).2 ⟨hin, hgt, hf⟩).symm.trans h)
  | some c =>
    rw [fragmentCell_of_some h, if_pos hz, ofBits_pixelDepth, F64.gt_irrefl] at hgt
    cases hgt

theorem fillTriangle_redrawn {t : Target} {f : Fill} {c : Canvas} (hc : c.Wf) (hd : ¬ Degenerate t.w t.h f.tri)
    (hz : f.zen = true) (col : Word) :
    fillTriangle t { f with color := col } (fillTriangle t f c) = fillTriangle t f c := by
  have hf := fillTriangle_wf (t := t) (f := f) hc
  refine Canvas.ext_cell (fillTriangle_wf hf) hf fun i => ?_
  by_cases hi : ∀ p ∈ boxPixels (boundingBox t f.tri), i ≠ linearIndex t.w p.1 p.2
  · exact cell_fillTriangle_of_not_mem (f := { f with color := col }) hf hd hi
  · push Not at hi
    obtain ⟨p, hp, rfl⟩ := hi
    rw [cell_fillTriangle_of_mem (f := { f with color := col }) hf hd hp, cell_fillTriangle_of_mem hc hd hp,
      fragmentCell_redrawn hz]

section
variable {s t : State} {k : Slot} {tex : Option Slot}

/-- Under the depth test a fill of the target leaves every element as it was or makes its depth greater. -/
def State.DepthGrows (s t : State) (k : Slot) (j : Nat) : Prop :=
  ((t.img k).pix.read j = (s.img k).pix.read j ∧ t.zb.d.read j = s.zb.d.read j) ∨
    (F64.ofBits (t.zb.d.read j)).gt (F64.ofBits (s.zb.d.read j)) = true

theorem depthGrows_setCanvas {c : Canvas} {j : Nat}
    (h : c.cell j = (s.canvas k).cell j ∨
      (F64.ofBits (c.cell j).depth).gt (F64.ofBits ((s.canvas k).cell j).depth) = true) :
    s.DepthGrows (s.clearReport.setCanvas k c) k j := by
  rw [State.DepthGrows, State.setCanvas_img_self, State.setCanvas_zb]
  exact h.imp (fun e => ⟨congrArg PixelCell.color e, congrArg PixelCell.depth e⟩) id

theorem depthGrows_raiseIllegal (w : Word) (x : IllegalReason) (j : Nat) :
    s.DepthGrows (s.clearReport.raiseIllegal w x) k j := .inl ⟨by simp, by simp⟩

theorem depthGrows_fill {f : Fill} (hz : f.zen = true) (hwf : (s.canvas k).Wf)
    (hd : ¬ Degenerate (s.imgW k) (s.imgH k) f.tri) (j : Nat) :
    s.DepthGrows (s.clearReport.setCanvas k (fillTriangle (s.target k) f (s.canvas k))) k j := by
  refine depthGrows_setCanvas ?_
  rcases cell_fillTriangle_cases (t := s.target k) hwf hd j with h | ⟨x, y, h⟩
  · exact .inl h
  · rw [h]
    exact fragmentCell_grows hz x y _

theorem depthGrows_shadeAndFill {tc : TexCoords} (hwf : (s.canvas k).Wf)
    (hd : ¬ Degenerate (s.imgW k) (s.imgH k) s.argTriangle) (j : Nat) :
    s.DepthGrows (s.clearReport.setCanvas k
      (shadeAndFill (s.target k) s.argTriangle (s.texture tex tc) true (s.canvas k))) k j := by
  unfold shadeAndFill
  split
  · exact depthGrows_setCanvas (c := s.canvas k) (.inl rfl)
  · next color _ =>
    exact depthGrows_fill (f := { tri := s.argTriangle, tex := s.texture tex tc, zen := true, color := color })
      rfl hwf hd j

end

/-- Settles O45: under the depth test a fragment's depth is greater than the stored one, and reads back as it is. -/
theorem depthOnlyGrows : Obligations.DepthOnlyGrows := by
  intro k tex i s t hi hpix hdepth hd hexec j
  have hwf := canvas_wf hpix hdepth
  rw [operandTriangle_eq] at hd
  show s.DepthGrows t k j
  simp only [List.mem_cons, List.not_mem_nil, or_false] at hi
  rcases hi with rfl | rfl
  · rcases exec_tri_cases hexec with ⟨-, rfl⟩ | ⟨r, rfl⟩
    · exact depthGrows_fill (f := s.triFill tex true) rfl hwf hd j
    · exact depthGrows_raiseIllegal _ r j
  · rcases exec_face_cases hexec with ⟨-, rfl⟩ | ⟨r, rfl⟩
    · exact depthGrows_shadeAndFill hwf hd j
    · exact depthGrows_raiseIllegal _ r j

/-! ## Redrawing (R257, R341) -/

section
variable {s : State} {k : Slot} {tex : Option Slot} {zen : Bool} (c : Dword)

/-- `s` with another flat colour for TRI. -/
abbrev State.recolor (s : State) (c : Dword) : State := { s with a := s.a.set 15 c }

theorem areg_recolor {i : Fin 16} (hi : i ≠ 15) : (s.recolor c).areg i = s.areg i := by
  rw [State.areg, get_set_reg, if_neg fun e => hi (Fin.ext e.symm)]
  rfl

theorem argTriangle_recolor : (s.recolor c).argTriangle = s.argTriangle := by
  simp [State.argTriangle, State.argF64, areg_recolor]

theorem argTexCoords_recolor : (s.recolor c).argTexCoords = s.argTexCoords := by
  simp [State.argTexCoords, State.argF64, areg_recolor]

theorem fillCheck_recolor : (s.recolor c).fillCheck k tex zen = s.fillCheck k tex zen := by
  simp only [fillCheck_eq, State.depthFits, argTriangle_recolor, img_with_a]
  rfl

theorem triFill_recolor :
    (s.recolor c).triFill tex zen = { s.triFill tex zen with color := c.extractLsb' 0 32 } := by
  have hcolor : (s.recolor c).argColor 15 = c.extractLsb' 0 32 := by
    rw [State.argColor, State.areg, get_set_reg]
    rfl
  have htexture (tc : TexCoords) : (s.recolor c).texture tex tc = s.texture tex tc := by
    simp only [State.texture, State.imgW, State.imgH, img_with_a]
  rw [State.triFill, argTriangle_recolor, argTexCoords_recolor, htexture, hcolor]
  rfl

/-- TRI in another flat colour. -/
theorem exec_tri_recolor (h : s.fillCheck k tex zen = none) :
    exec (.tri k tex zen) (s.recolor c) =
      .next ((s.clearReport.setCanvas k (fillTriangle (s.target k)
        { s.triFill tex zen with color := c.extractLsb' 0 32 } (s.canvas k))).recolor c) := by
  rw [exec_tri_passed ((fillCheck_recolor c).trans h), triFill_recolor]
  cases k <;> rfl

end

/-! ## A state with a new canvas -/

section
variable {s : State} {k : Slot} {tex : Option Slot}

theorem clearReport_setCanvas_target (c : Canvas) : (s.clearReport.setCanvas k c).target k = s.target k := by
  cases k <;> rfl

theorem clearReport_setCanvas_canvas (c : Canvas) : (s.clearReport.setCanvas k c).canvas k = c := by
  cases k <;> rfl

/-- Writing a canvas leaves every image that is not the target. -/
theorem clearReport_setCanvas_texture (htex : tex ≠ some k) (c : Canvas) (tc : TexCoords) :
    (s.clearReport.setCanvas k c).texture tex tc = s.texture tex tc := by
  cases tex with
  | none => rfl
  | some j =>
    have hj := State.setCanvas_img_ne s.clearReport k c j fun e => htex (congrArg some e)
    simp only [State.texture, State.imgW, State.imgH, Option.map_some, hj, State.clearReport_img]

/-- The checks of TRI and FACE do not read the elements of the memories. -/
theorem fillCheck_setCanvas {zen : Bool} (c : Canvas) :
    (s.clearReport.setCanvas k c).fillCheck k tex zen = s.fillCheck k tex zen := by
  have hvalid (j : Slot) : ((s.clearReport.setCanvas k c).img j).valid = (s.img j).valid := by
    cases j <;> cases k <;> rfl
  have hfits : (s.clearReport.setCanvas k c).depthFits k = s.depthFits k := by
    cases k <;> rfl
  simp only [fillCheck_eq, hvalid, hfits]
  rfl

theorem clearReport_setCanvas_triFill (htex : tex ≠ some k) (zen : Bool) (c : Canvas) :
    (s.clearReport.setCanvas k c).triFill tex zen = s.triFill tex zen :=
  congrArg (fun t : Option Texture => Fill.mk s.argTriangle t zen (s.argColor 15))
    (clearReport_setCanvas_texture htex c s.argTexCoords)

theorem clearReport_setCanvas_again (c : Canvas) :
    (s.clearReport.setCanvas k c).clearReport.setCanvas k c = s.clearReport.setCanvas k c := by cases k <;> rfl

end

/-- Settles O46: the second TRI fills the canvas that the first one left, and leaves it. -/
theorem redrawnTriangleKeepsFirst : Obligations.RedrawnTriangleKeepsFirst := by
  intro k tex s t u c htex hpix hdepth hd ht herr hu
  rw [operandTriangle_eq] at hd
  rcases exec_tri_cases ht with ⟨hcheck, rfl⟩ | ⟨r, rfl⟩
  · rw [← State.triFill] at hu ⊢
    have hsame := fillTriangle_redrawn (t := s.target k) (f := s.triFill tex true) (canvas_wf hpix hdepth) hd rfl
      (c.extractLsb' 0 32)
    generalize fillTriangle (s.target k) (s.triFill tex true) (s.canvas k) = d at *
    rw [exec_tri_recolor c ((fillCheck_setCanvas d).trans hcheck), clearReport_setCanvas_triFill htex,
      clearReport_setCanvas_target, clearReport_setCanvas_canvas, hsame, clearReport_setCanvas_again] at hu
    exact (Host.Outcome.next.inj hu).symm
  · cases herr

end Sys2Proof.Machine
end

section
/-! FACE and RENDER (44_rasterizer.md R264 to R270): FACE is TRI in the grey of its intensity or nothing, and RENDER is
FACE for each face of the view. -/

namespace Sys2Proof.Machine

/-! ## Culling and shading (R264 to R267) -/

section
variable {v : Triangle}

/-- Not culled: the normal has a length and points to the viewer. -/
theorem shade_eq_some (hl : (len3 (faceNormal v)).gt F64.zero = true)
    (hi : ((faceNormal v).z.div (len3 (faceNormal v))).gt F64.zero = true) :
    shade v = some (grey (sat8 (((faceNormal v).z.div (len3 (faceNormal v))).mul f255).nearest)) := by
  simp only [shade, intensity, hl, hi, if_true]

theorem shade_eq_none (h : ¬ ((len3 (faceNormal v)).gt F64.zero = true ∧
    ((faceNormal v).z.div (len3 (faceNormal v))).gt F64.zero = true)) : shade v = none := by
  simp only [shade, intensity]
  split_ifs with hl
  · exact if_neg fun hi => h ⟨hl, hi⟩
  · rfl

end

section
variable {s : State} {k : Slot} {tex : Option Slot} {zen : Bool}

theorem clearReport_setCanvas_self (s : State) (k : Slot) : s.clearReport.setCanvas k (s.canvas k) = s.okFrom := by
  cases k <;> rfl

theorem exec_face_culled (hcheck : s.fillCheck k tex zen = none) (h : shade s.argTriangle = none) :
    exec (.face k tex zen) s = .next s.okFrom := by
  rw [exec_face_passed hcheck, shadeAndFill, h, clearReport_setCanvas_self]

/-- A face that is drawn is a TRI in its shade. -/
theorem exec_face_drawn (hcheck : s.fillCheck k tex zen = none) {col : Word}
    (h : shade s.argTriangle = some col) :
    exec (.face k tex zen) s = .next (s.clearReport.setCanvas k
      (fillTriangle (s.target k) { s.triFill tex zen with color := col } (s.canvas k))) := by
  rw [exec_face_passed hcheck, shadeAndFill, h]
  rfl

end

theorem extractLsb'_setWidth (w : Word) : (w.setWidth 64 : Dword).extractLsb' 0 32 = w :=
  BitVec.eq_of_toNat_eq (by simp; omega)

/-- Settles O42: a shaded FACE and the TRI in that grey are one fill. -/
theorem faceCullsOrShades : Obligations.FaceCullsOrShades := by
  refine ⟨fun k tex zen => congrArg Code.cmd32 (encodeFill_eq_fillWord 0x33#8 k tex zen), ?_⟩
  intro k tex zen s hcheck v e1 e2 n l i g c
  have hcheck := rasterFailure_fill_eq_none.1 hcheck
  refine ⟨fun hl hi => ⟨_, exec_face_drawn hcheck (shade_eq_some hl hi), ?_⟩,
    fun h => exec_face_culled hcheck (shade_eq_none h)⟩
  refine (exec_tri_recolor c hcheck).trans ?_
  rw [extractLsb'_setWidth]
  rfl

/-! ## The view (20_memory.md R70) -/

section
variable (m : Mesh)

/-- The vertices of a face as the view lists them. -/
def Mesh.faceTriangle (f : MeshFace) : Triangle :=
  { v0 := (m.vertices.getD f.v0 ⟨0, 0, 0⟩).point
    v1 := (m.vertices.getD f.v1 ⟨0, 0, 0⟩).point
    v2 := (m.vertices.getD f.v2 ⟨0, 0, 0⟩).point }

/-- The texture points of a face as the view lists them. -/
def Mesh.faceCoords (f : MeshFace) : TexCoords :=
  { t0 := (m.texPoints.getD f.t0 ⟨0, 0⟩).point
    t1 := (m.texPoints.getD f.t1 ⟨0, 0⟩).point
    t2 := (m.texPoints.getD f.t2 ⟨0, 0⟩).point }

/-- A face as RENDER resolves it when it meets R70. -/
def Mesh.loadedFace (tex : Bool) (f : MeshFace) : MeshTriangle :=
  { tri := m.faceTriangle f, coords := if tex then some (m.faceCoords f) else none }

theorem MeshVertex.point_finiteXY (v : MeshVertex) :
    v.point.finiteXY = true ↔ finiteBits v.x ∧ finiteBits v.y := by
  rw [Vec3.finiteXY, Bool.and_eq_true, ← isFinite_ofBits, ← isFinite_ofBits]
  exact Iff.rfl

/-- R70 for one vertex index. -/
def Mesh.VertexOk (i : Nat) : Prop := ∃ v, m.vertices[i]? = some v ∧ finiteBits v.x ∧ finiteBits v.y

variable {m}

theorem Mesh.vertex_of_ok {i : Nat} (h : m.VertexOk i) :
    m.vertex i = some (m.vertices.getD i ⟨0, 0, 0⟩).point ∧
      (m.vertices.getD i ⟨0, 0, 0⟩).point.finiteXY = true := by
  obtain ⟨v, hv, hfin⟩ := h
  have hfinite := v.point_finiteXY.2 hfin
  rw [List.getD_eq_getElem?_getD, hv, Option.getD_some]
  exact ⟨by simp [Mesh.vertex, hv, hfinite], hfinite⟩

theorem Mesh.vertexOk_of_eq_some {i : Nat} {p : Vec3} (h : m.vertex i = some p) : m.VertexOk i := by
  unfold Mesh.vertex at h
  split at h
  · cases h
  · next v hv =>
    split_ifs at h with hfin
    exact ⟨v, hv, v.point_finiteXY.1 hfin⟩

theorem Mesh.texPoint_of_lt {i : Nat} (h : i < m.texPoints.length) :
    m.texPoint i = some (m.texPoints.getD i ⟨0, 0⟩).point := by
  simp [Mesh.texPoint, h]

theorem Mesh.lt_of_texPoint_eq_some {i : Nat} {p : Vec2} (h : m.texPoint i = some p) :
    i < m.texPoints.length := by
  obtain ⟨v, hv, -⟩ := Option.map_eq_some_iff.1 h
  exact (List.getElem?_eq_some_iff.1 hv).1

theorem Mesh.faceOk_iff {tex : Bool} {f : MeshFace} :
    m.faceOk tex f ↔ (m.VertexOk f.v0 ∧ m.VertexOk f.v1 ∧ m.VertexOk f.v2) ∧
      (tex = true → f.t0 < m.texPoints.length ∧ f.t1 < m.texPoints.length ∧ f.t2 < m.texPoints.length) := by
  simp [Mesh.faceOk, Mesh.VertexOk]

theorem Mesh.triangle_of_ok {f : MeshFace} (h : m.VertexOk f.v0 ∧ m.VertexOk f.v1 ∧ m.VertexOk f.v2) :
    m.triangle f = some (m.faceTriangle f) ∧ (m.faceTriangle f).finiteXY = true := by
  obtain ⟨h0, h1, h2⟩ := h
  obtain ⟨e0, fin0⟩ := vertex_of_ok h0
  obtain ⟨e1, fin1⟩ := vertex_of_ok h1
  obtain ⟨e2, fin2⟩ := vertex_of_ok h2
  refine ⟨by rw [Mesh.triangle, e0, e1, e2]; rfl, ?_⟩
  rw [Triangle.finiteXY, Bool.and_eq_true, Bool.and_eq_true]
  exact ⟨⟨fin0, fin1⟩, fin2⟩

theorem Mesh.vertexOk_of_triangle_eq_some {f : MeshFace} {t : Triangle} (h : m.triangle f = some t) :
    m.VertexOk f.v0 ∧ m.VertexOk f.v1 ∧ m.VertexOk f.v2 := by
  unfold Mesh.triangle at h
  split at h
  · next e0 e1 e2 => exact ⟨vertexOk_of_eq_some e0, vertexOk_of_eq_some e1, vertexOk_of_eq_some e2⟩
  · cases h

theorem Mesh.texCoords_of_lt {f : MeshFace}
    (h : f.t0 < m.texPoints.length ∧ f.t1 < m.texPoints.length ∧ f.t2 < m.texPoints.length) :
    m.texCoords f = some (m.faceCoords f) := by
  obtain ⟨h0, h1, h2⟩ := h
  rw [Mesh.texCoords, texPoint_of_lt h0, texPoint_of_lt h1, texPoint_of_lt h2]
  rfl

theorem Mesh.lt_of_texCoords_eq_some {f : MeshFace} {tc : TexCoords} (h : m.texCoords f = some tc) :
    f.t0 < m.texPoints.length ∧ f.t1 < m.texPoints.length ∧ f.t2 < m.texPoints.length := by
  unfold Mesh.texCoords at h
  split at h
  · next e0 e1 e2 =>
    exact ⟨lt_of_texPoint_eq_some e0, lt_of_texPoint_eq_some e1, lt_of_texPoint_eq_some e2⟩
  · cases h

/-- A face that meets R70 is resolved to what the view lists. -/
theorem Mesh.resolveFace_of_ok {tex : Bool} {f : MeshFace} (h : m.faceOk tex f) :
    m.resolveFace tex f = some (m.loadedFace tex f) := by
  obtain ⟨hv, ht⟩ := faceOk_iff.1 h
  rw [Mesh.resolveFace, (triangle_of_ok hv).1, Mesh.loadedFace]
  cases tex with
  | false => rfl
  | true => simp [texCoords_of_lt (ht rfl)]

/-- Only a face that meets R70 is resolved. -/
theorem Mesh.faceOk_of_resolveFace {tex : Bool} {f : MeshFace} {t : MeshTriangle}
    (h : m.resolveFace tex f = some t) : m.faceOk tex f := by
  unfold Mesh.resolveFace at h
  split at h
  · cases h
  · next v hv =>
    refine faceOk_iff.2 ⟨vertexOk_of_triangle_eq_some hv, fun htex => ?_⟩
    rw [if_pos htex] at h
    obtain ⟨tc, htc, -⟩ := Option.map_eq_some_iff.1 h
    exact lt_of_texCoords_eq_some htc

theorem Mesh.resolve_of_ok {tex : Bool} {fs : List MeshFace} (h : ∀ f ∈ fs, m.faceOk tex f) :
    m.resolve tex fs = some (fs.map (m.loadedFace tex)) := by
  induction fs with
  | nil => rfl
  | cons f fs ih =>
    obtain ⟨hf, hfs⟩ := List.forall_mem_cons.1 h
    rw [Mesh.resolve, resolveFace_of_ok hf, ih hfs]
    rfl

theorem Mesh.ok_of_resolve {tex : Bool} {fs : List MeshFace} {ts : List MeshTriangle}
    (h : m.resolve tex fs = some ts) : ∀ f ∈ fs, m.faceOk tex f := by
  induction fs generalizing ts with
  | nil => simp
  | cons f fs ih =>
    unfold Mesh.resolve at h
    split at h
    · next hf hfs => exact List.forall_mem_cons.2 ⟨faceOk_of_resolveFace hf, ih hfs⟩
    · cases h

end

/-! ## The pass over the faces (R270) -/

section
variable {s : State} {k : Slot} {tex : Option Slot}

/-- What the face `f` of the view does to a canvas of slot `k`. -/
def State.faceFill (s : State) (k : Slot) (tex : Option Slot) (c : Canvas) (f : MeshFace) : Canvas :=
  shadeAndFill (s.target k) (s.mesh.faceTriangle f) (s.texture tex (s.mesh.faceCoords f)) true c

theorem meshTexture_loadedFace (f : MeshFace) :
    s.meshTexture tex (s.mesh.loadedFace tex.isSome f) = s.texture tex (s.mesh.faceCoords f) := by
  cases tex <;> rfl

theorem renderFaces_loaded (fs : List MeshFace) (c : Canvas) :
    renderFaces s k tex (fs.map (s.mesh.loadedFace tex.isSome)) c = fs.foldl (s.faceFill k tex) c := by
  rw [renderFaces, List.foldl_map]
  simp only [meshTexture_loadedFace]
  rfl

/-- RENDER over a view that meets R70. -/
theorem exec_render_ok (h : s.targetCheck k tex = none) (hok : s.mesh.ok tex.isSome) :
    exec (.render k tex) s = .next ((s.clearReport.setPix k
      (s.mesh.faces.foldl (s.faceFill k tex) { pix := (s.img k).pix, depth := Memory.empty }).pix).setZb
        DepthBuffer.invalid) := by
  simp only [exec, execRender, h, Mesh.resolve_of_ok hok, renderFaces_loaded]

theorem exec_render_refused (h : s.targetCheck k tex = none) (hbad : ¬ s.mesh.ok tex.isSome) :
    exec (.render k tex) s = .refused .meshPrecondition := by
  have hnone : s.mesh.resolve tex.isSome s.mesh.faces = none :=
    Option.eq_none_iff_forall_ne_some.2 fun ts hts => hbad (Mesh.ok_of_resolve hts)
  simp only [exec, execRender, h, hnone]

/-! ## RENDER's own effect -/

theorem faceFill_wf {c : Canvas} (h : c.Wf) (f : MeshFace) : (s.faceFill k tex c f).Wf := by
  unfold State.faceFill shadeAndFill
  split
  · exact h
  · exact fillTriangle_wf h

theorem cell_faceFill_outside {c : Canvas} (h : c.Wf) (f : MeshFace) {i : Nat} (hi : s.imgW k * s.imgH k ≤ i) :
    (s.faceFill k tex c f).cell i = c.cell i := by
  unfold State.faceFill shadeAndFill
  split
  · rfl
  · exact cell_fillTriangle_outside (t := s.target k) h hi

/-- The pass keeps the canonical form and leaves every element outside the image. -/
theorem faceFills_spec {c : Canvas} (h : c.Wf) (fs : List MeshFace) :
    (fs.foldl (s.faceFill k tex) c).Wf ∧
      ∀ i, s.imgW k * s.imgH k ≤ i → (fs.foldl (s.faceFill k tex) c).cell i = c.cell i := by
  induction fs generalizing c with
  | nil => exact ⟨h, fun _ _ => rfl⟩
  | cons f fs ih =>
    obtain ⟨hwf, hout⟩ := ih (faceFill_wf h f)
    exact ⟨hwf, fun i hi => (hout i hi).trans (cell_faceFill_outside h f hi)⟩

theorem clearReport_setPix_setZb (s : State) (k : Slot) (m : PixMem) (z : DepthBuffer) :
    (s.clearReport.setPix k m).setZb z = ({ s.okFrom with zb := z } : State).setImg k { s.img k with pix := m } := by
  cases k <;> rfl

end

/-- Settles O44: the faces resolve exactly over a view that meets R70, and every fill stays inside the image. -/
theorem renderCompletes : Obligations.RenderCompletes := by
  refine ⟨fun k tex => congrArg Code.cmd32 (encodeFill_eq_fillWord 0x34#8 k tex false),
    fun k tex s hcheck hpix => ⟨fun hok => ?_, exec_render_refused (rasterFailure_target_eq_none.1 hcheck)⟩⟩
  have hstart : Canvas.Wf { pix := (s.img k).pix, depth := Memory.empty } := ⟨hpix, Memory.empty_wf⟩
  obtain ⟨hwf, hout⟩ := faceFills_spec (s := s) (k := k) (tex := tex) hstart s.mesh.faces
  refine ⟨_, ?_, hwf.pix, fun i hi => congrArg PixelCell.color (hout i hi), fun hnil => ?_⟩
  · rw [exec_render_ok (rasterFailure_target_eq_none.1 hcheck) hok, clearReport_setPix_setZb]
    rfl
  · rw [hnil]
    rfl

/-! ## RENDER as FACE commands (R270) -/

section
variable {s : State} {k : Slot} {tex : Option Slot}

theorem loadFace_img (f : MeshFace) (j : Slot) : (s.loadFace f).img j = s.img j := img_with_a s _ j

theorem loadFace_target (f : MeshFace) : (s.loadFace f).target k = s.target k := by cases k <;> rfl

theorem loadFace_canvas (f : MeshFace) : (s.loadFace f).canvas k = s.canvas k := by cases k <;> rfl

theorem loadFace_texture (f : MeshFace) (tc : TexCoords) : (s.loadFace f).texture tex tc = s.texture tex tc := by
  simp only [State.texture, State.imgW, State.imgH, loadFace_img]

/-- A face that meets R70 passes the checks of FACE. -/
theorem fillCheck_loadFace {f : MeshFace} (htarget : s.targetCheck k tex = none) (hfits : s.depthFits k = true)
    (hf : s.mesh.faceOk tex.isSome f) : (s.loadFace f).fillCheck k tex true = none := by
  obtain ⟨hv, htexture⟩ := targetCheck_eq_none.1 htarget
  obtain ⟨hvertices, -⟩ := Mesh.faceOk_iff.1 hf
  refine fillCheck_eq_none.2 ⟨(loadFace_img f k).symm ▸ hv, ?_, fun _ => ?_, (Mesh.triangle_of_ok hvertices).2⟩
  · simpa only [State.textureValid, loadFace_img] using htexture
  · rw [depthFits_iff, loadFace_img]
    exact depthFits_iff.1 hfits

/-- FACE over a loaded face of the view. -/
theorem exec_face_loaded {f : MeshFace} (h : (s.loadFace f).fillCheck k tex true = none) :
    exec (.face k tex true) (s.loadFace f) =
      .next ((s.loadFace f).clearReport.setCanvas k (s.faceFill k tex (s.canvas k) f)) := by
  rw [exec_face_passed h, loadFace_target, loadFace_canvas, loadFace_texture]
  rfl

/-- After one face the next one sees the same target, view and texture. -/
theorem faceFill_after_face (htex : tex ≠ some k) (f : MeshFace) (c : Canvas) :
    ((s.loadFace f).clearReport.setCanvas k c).faceFill k tex = s.faceFill k tex := by
  funext d g
  rw [State.faceFill, State.faceFill, clearReport_setCanvas_target, clearReport_setCanvas_texture htex,
    loadFace_target, loadFace_texture]
  rfl

theorem loadFace_after_face (f g : MeshFace) (c : Canvas) :
    ((s.loadFace f).clearReport.setCanvas k c).loadFace g = (s.loadFace g).clearReport.setCanvas k c := by
  cases k <;> rfl

/-- The FACE commands leave what the pass leaves, and some operands. -/
theorem faceByFace_eq {fs : List MeshFace} (htex : tex ≠ some k) (hclear : s.clearReport = s)
    (hcheck : ∀ f ∈ fs, (s.loadFace f).fillCheck k tex true = none) :
    ∃ a, s.faceByFace k tex fs =
      some (({ s with a := a } : State).clearReport.setCanvas k (fs.foldl (s.faceFill k tex) (s.canvas k))) := by
  induction fs generalizing s with
  | nil => exact ⟨s.a, congrArg some (hclear.symm.trans (clearReport_setCanvas_self s k).symm)⟩
  | cons f fs ih =>
    obtain ⟨hf, hfs⟩ := List.forall_mem_cons.1 hcheck
    obtain ⟨a, ha⟩ := ih (s := (s.loadFace f).clearReport.setCanvas k (s.faceFill k tex (s.canvas k) f)) rfl
      fun g hg => by rw [loadFace_after_face, fillCheck_setCanvas]; exact hfs g hg
    rw [faceFill_after_face htex, clearReport_setCanvas_canvas] at ha
    refine ⟨a, ?_⟩
    rw [State.faceByFace, exec_face_loaded hf]
    refine (if_pos rfl).trans (ha.trans ?_)
    cases k <;> rfl

end

/-! ### After ZCLR -/

/-- The state that ZCLR of a valid slot leaves (R240). -/
def State.cleared (s : State) (k : Slot) : State :=
  s.clearReport.setZb (DepthBuffer.fresh (s.img k).hdr.width (s.img k).hdr.height)

section
variable {s : State} {k : Slot} {tex : Option Slot}

theorem cleared_img (j : Slot) : (s.cleared k).img j = s.img j := by cases j <;> rfl

theorem cleared_targetCheck : (s.cleared k).targetCheck k tex = s.targetCheck k tex := by
  simp only [targetCheck_eq, cleared_img]

theorem cleared_depthFits : (s.cleared k).depthFits k = true := by
  rw [depthFits_iff, cleared_img]
  exact ⟨rfl, rfl, rfl⟩

theorem cleared_canvas : (s.cleared k).canvas k = { pix := (s.img k).pix, depth := Memory.empty } := by
  rw [State.canvas, cleared_img]
  rfl

theorem cleared_faceFill : (s.cleared k).faceFill k tex = s.faceFill k tex := by
  funext c f
  simp only [State.faceFill, State.target, State.texture, State.imgW, State.imgH, cleared_img]
  rfl

/-- RENDER's result beside that of the FACE commands over the canvas `c`. -/
theorem setPix_setZb_eq_with (a : Vector Dword 16) (c : Canvas) :
    (s.clearReport.setPix k c.pix).setZb DepthBuffer.invalid =
      { ({ s.cleared k with a := a } : State).clearReport.setCanvas k c with
        a := s.a, zb := DepthBuffer.invalid } := by
  cases k <;> rfl

end

/-- Settles O43: the pass starts from the canvas that ZCLR leaves. -/
theorem renderIsFaceByFace : Obligations.RenderIsFaceByFace := by
  intro k tex s htex hcheck hok
  have htarget := rasterFailure_target_eq_none.1 hcheck
  obtain ⟨hv, -⟩ := targetCheck_eq_none.1 htarget
  obtain ⟨a, ha⟩ := faceByFace_eq (s := s.cleared k) (fs := s.mesh.faces) htex rfl fun f hf =>
    fillCheck_loadFace (cleared_targetCheck.trans htarget) cleared_depthFits (hok f hf)
  refine ⟨s.cleared k, _, exec_zclr_valid hv, ha, ?_⟩
  rw [cleared_faceFill, cleared_canvas, exec_render_ok htarget hok, setPix_setZb_eq_with a]
  rfl

end Sys2Proof.Machine
end

section
/-! How a command ends (60_exceptions.md R290, R297, R300, R301): with the report cleared, or with a report that
the tables list for it, and then with nothing else changed but COFF by IHDR and IDEC and HS by IDEC. -/

namespace Sys2Proof.Machine

variable {s t : State} {i : Instr} {e : Report}

/-! ## The tables of kinds and reasons -/

/-- The commands that R290 lists for a kind. Those of IllegalOperation are listed by its reasons. -/
def ErrKind.raisers : ErrKind → List String
  | .outOfBounds => ["CRD", "CPK", "CSK", "CAC", "IHDR", "IDEC"]
  | .unexpectedValue => ["CAC", "IHDR", "IDEC"]
  | .unsupportedFormat => ["IHDR", "IDEC"]
  | .invalidCoordinate => ["IGET", "ISET"]
  | .malformedStream => ["IDEC"]
  | .illegalOperation => []

/-- The commands that R297 lists for a reason of IllegalOperation; an illegal word is no command. -/
def IllegalReason.raisers : IllegalReason → List String
  | .word => []
  | .slot => ["IGET", "ISET", "IENC", "ZCLR", "LINE", "TRI", "FACE", "RENDER"]
  | .texture => ["TRI", "FACE", "RENDER"]
  | .depth => ["TRI", "FACE"]
  | .vertex => ["TRI", "FACE"]
  | .dimension => ["INEW"]

/-- The reports that R290, R291 and R297 allow command `i`. -/
inductive MayRaise (i : Instr) : Report → Prop
  | kind {e : Report} (hi : mnemonicOf i ∈ e.kind.raisers) : MayRaise i e
  | illegal (x : IllegalReason) (off : Dword) (hi : mnemonicOf i ∈ x.raisers) :
      MayRaise i ⟨.illegalOperation, (cmdWord i).setWidth 64, x.code, off⟩

/-- `s` after a raise of `e` that leaves this COFF, this HS and this decode in progress. -/
def State.failed (s : State) (e : Report) (coff : Nat) (hs : Staging) (dec : Option Decoding) : State :=
  { s.raise e with coff := coff, hs := hs, dec := dec }

/-- `t` has the report of `s`. -/
def State.SameReport (s t : State) : Prop :=
  t.err = s.err ∧ t.einfo0 = s.einfo0 ∧ t.einfo1 = s.einfo1 ∧ t.eoff = s.eoff

/-- How command `i` can end when it starts in `s` (R300, R301). -/
inductive CommandEnds (i : Instr) (s : State) : State → Prop
  | done {t : State} (h : s.clearReport.SameReport t) : CommandEnds i s t
  | failed {e : Report} {coff : Nat} {hs : Staging} {dec : Option Decoding} (he : MayRaise i e)
      (hcoff : coff = s.coff ∨ mnemonicOf i ∈ ["IHDR", "IDEC"]) (hhs : hs = s.hs ∨ mnemonicOf i = "IDEC")
      (hdec : dec = s.dec ∨ dec = none) : CommandEnds i s (s.failed e coff hs dec)

theorem CommandEnds.raise (he : MayRaise i e) : CommandEnds i s (s.clearReport.raise e) :=
  .failed he (.inl rfl) (.inl rfl) (.inl rfl)

theorem CommandEnds.raiseIllegal {x : IllegalReason} (hi : mnemonicOf i ∈ x.raisers) :
    CommandEnds i s (s.clearReport.raiseIllegal (cmdWord i) x) := .raise (.illegal x _ hi)

/-! ## The kinds that the procedures over the cursor raise -/

section
variable {src : List Byte} {n o c : Nat}

theorem kind_of_cursorRead_err (h : cursorRead src n o = .err e c) : e.kind = .outOfBounds := by
  obtain ⟨-, rfl, -⟩ := cursorRead_eq_err.1 h
  rfl

theorem kind_of_cursorPeek_err (h : cursorPeek src n o = .err e c) : e.kind = .outOfBounds := by
  rcases le_or_gt (o + n) src.length with hle | hlt
  · cases (cursorPeek_of_le hle).symm.trans h
  · cases (cursorPeek_of_lt hlt).symm.trans h
    rfl

theorem kind_of_cursorSeek_err {pos : Nat} (h : cursorSeek src pos o = .err e c) : e.kind = .outOfBounds := by
  rcases le_or_gt pos src.length with hle | hlt
  · cases (cursorSeek_of_le hle).symm.trans h
  · cases (cursorSeek_of_lt hlt).symm.trans h
    rfl

theorem kind_of_cursorAccept_err {b : List Byte} (h : cursorAccept src b o = .err e c) :
    e.kind ∈ [.outOfBounds, .unexpectedValue] := by
  rcases Scan.bind_eq_err.1 h with hread | ⟨a, c', -, hcheck⟩
  · simp [kind_of_cursorRead_err hread]
  · split at hcheck <;> cases hcheck
    simp

theorem kind_of_decodeRaw_err {hdr : Header} (h : decodeRaw src hdr o = .err e c) : e.kind = .outOfBounds := by
  rcases Scan.bind_eq_err.1 h with hread | ⟨_, _, -, hok⟩
  · exact kind_of_cursorRead_err hread
  · cases hok

theorem kind_of_rawPacket_err {k cnt : Nat} (h : rawPacket src k cnt o = .err e c) : e.kind = .outOfBounds := by
  induction cnt generalizing o with
  | zero => cases h
  | succ cnt ih =>
    rcases Scan.bind_eq_err.1 h with hread | ⟨_, _, -, hrest⟩
    · exact kind_of_cursorRead_err hread
    · rcases Scan.bind_eq_err.1 hrest with hrest | ⟨_, _, -, hok⟩
      · exact ih hrest
      · cases hok

theorem kind_of_runPacket_err {k cnt : Nat} (h : runPacket src k cnt o = .err e c) : e.kind = .outOfBounds := by
  rcases Scan.bind_eq_err.1 h with hread | ⟨_, _, -, hok⟩
  · exact kind_of_cursorRead_err hread
  · cases hok

/-- The kinds of the table of R199. -/
theorem HeaderField.failure_code {f : HeaderField} {x : FieldFailure} (h : f.failure src o = some x) :
    x.code ∈ [1#8, 2#8, 3#8] := by
  obtain ⟨offset, size, check⟩ := f
  dsimp only [HeaderField.failure] at h
  split at h
  · cases h
    simp
  · cases check with
    | any => cases h
    | zero | nonZero | oneOf =>
      obtain ⟨-, ⟨⟩⟩ := Option.ite_none_left_eq_some.1 h
      simp

/-- The header parser raises where the table of R199 has a failure, and raises that failure. -/
theorem failure_of_parseHeader_err (h : parseHeader src o = .err e c) :
    ∃ f, headerFailure src o = some f ∧ f.Reports e c := by
  cases hf : headerFailure src o with
  | none => cases (parseHeader_of_failure_none hf).symm.trans h
  | some f =>
    obtain ⟨e', c', hp, hr⟩ := parseHeader_of_failure hf
    cases hp.symm.trans h
    exact ⟨f, rfl, hr⟩

theorem failure_none_of_parseHeader_ok {hdr : Header} (h : parseHeader src o = .ok hdr c) :
    headerFailure src o = none := by
  cases hf : headerFailure src o with
  | none => rfl
  | some f =>
    obtain ⟨e', c', hp, -⟩ := parseHeader_of_failure hf
    cases hp.symm.trans h

theorem kind_of_parseHeader_err (h : parseHeader src o = .err e c) :
    e.kind ∈ [.outOfBounds, .unexpectedValue, .unsupportedFormat] := by
  obtain ⟨f, hf, hcode, -⟩ := failure_of_parseHeader_err h
  obtain ⟨field, -, hfield⟩ := List.exists_of_findSome?_eq_some hf
  have hin := HeaderField.failure_code hfield
  rw [← hcode] at hin
  have hkinds : ∀ k : ErrKind, k.code ∈ [1#8, 2#8, 3#8] →
      k ∈ [ErrKind.outOfBounds, .unexpectedValue, .unsupportedFormat] := by
    intro k
    cases k <;> decide
  exact hkinds _ hin

end

/-! ## The packet loop (R207, R219) -/

/-- The kinds that a packet can end IDEC with. -/
def packetKinds : List ErrKind := [.outOfBounds, .malformedStream]

/-- What one packet makes of `s`: the loop goes on with another COFF, the image is committed, or the decode is
aborted. -/
inductive State.AfterPacket (s : State) : State → Prop
  | goesOn (c : Nat) (d : Decoding) : s.AfterPacket ((s.setCoff c).setDec (some d))
  | commits {t : State} (hdec : t.dec = none) (h : s.SameReport t) : s.AfterPacket t
  | aborts {e : Report} (c : Nat) (he : e.kind ∈ packetKinds) : s.AfterPacket (s.abortDecode e c)

/-- The repetition byte's own advance of COFF does not count. -/
theorem State.AfterPacket.of_setCoff {c : Nat} (h : (s.setCoff c).AfterPacket t) : s.AfterPacket t := by
  cases h with
  | goesOn c' d => exact .goesOn c' d
  | commits hdec h => exact .commits hdec h
  | aborts c' he => exact .aborts c' he

theorem packetBody_afterPacket {cnt : Nat} {payload : Nat → Scan (List Word)} (d : Decoding) (s : State)
    (hkind : ∀ o e c, payload o = .err e c → e.kind = .outOfBounds) :
    s.AfterPacket (packetBody cnt payload d s) := by
  rcases packetBody_cases cnt payload d s with ⟨-, eq⟩ | ⟨-, e, c, he, eq⟩ | ⟨-, ps, c, -, eq⟩
  · exact eq ▸ .aborts _ (by simp [overshoot, packetKinds])
  · exact eq ▸ .aborts c (by simp [hkind _ e c he, packetKinds])
  · rcases producePixels_cases s d ps c with ⟨-, eq'⟩ | ⟨-, eq'⟩
    · exact eq.trans eq' ▸ .goesOn c _
    · exact eq.trans eq' ▸ .commits rfl ⟨rfl, rfl, rfl, rfl⟩

theorem packetIteration_afterPacket (d : Decoding) (s : State) : s.AfterPacket (packetIteration d s) := by
  unfold packetIteration
  rcases fetchRep_cases s with ⟨-, eq⟩ | ⟨-, eq⟩
  · rw [eq]
    exact .aborts _ (by simp [outOfBounds, packetKinds])
  · simp only [eq]
    split
    · exact (packetBody_afterPacket d _ fun _ _ _ => kind_of_runPacket_err).of_setCoff
    · exact (packetBody_afterPacket d _ fun _ _ _ => kind_of_rawPacket_err).of_setCoff

/-- The loop keeps the report, or ends with a decode that is aborted in the state where the loop began: until
then only COFF and the loop variables have changed. -/
theorem packetLoop_cases (fuel : Nat) (s : State) :
    s.SameReport (packetLoop fuel s) ∨
      ∃ e c, e.kind ∈ packetKinds ∧ packetLoop fuel s = s.abortDecode e c := by
  induction fuel generalizing s with
  | zero => exact .inl ⟨rfl, rfl, rfl, rfl⟩
  | succ fuel ih =>
    cases hs : s.dec with
    | none =>
      rw [packetLoop_of_dec_none hs]
      exact .inl ⟨rfl, rfl, rfl, rfl⟩
    | some d =>
      rw [packetLoop_succ_of_dec hs]
      have hnext := packetIteration_afterPacket d s
      generalize packetIteration d s = t at hnext
      cases hnext with
      | goesOn c d' => exact ih _
      | commits hdec h => exact .inl ((packetLoop_of_dec_none hdec fuel).symm ▸ h)
      | aborts c he => exact .inr ⟨_, c, he, packetLoop_of_dec_none rfl fuel⟩

theorem idecFinish_of_dec_none (hs : s.dec = none) : idecFinish s = s := by
  rw [idecFinish, hs]

theorem idecFinish_cases (s : State) :
    s.SameReport (idecFinish s) ∨ ∃ e c, e.kind ∈ packetKinds ∧ idecFinish s = s.abortDecode e c := by
  unfold idecFinish
  split
  · exact .inl ⟨rfl, rfl, rfl, rfl⟩
  · exact packetLoop_cases _ s

/-! ## IDEC (R210, R304) -/

/-- HS once the header at COFF has been parsed, or has failed to parse (R196, R199). -/
def State.parsedHs (s : State) : Staging :=
  if headerFailure s.src s.coff = none then { valid := true, hdr := headerAt s.src s.coff } else s.hs

theorem parsedHs_of_ok {hdr : Header} {c : Nat} (h : parseHeader s.src s.coff = .ok hdr c) :
    s.parsedHs = { valid := true, hdr := hdr } := by
  obtain ⟨-, rfl, -⟩ := parseHeader_ok h
  exact if_pos (failure_none_of_parseHeader_ok h)

theorem parsedHs_of_err {c : Nat} (h : parseHeader s.src s.coff = .err e c) : s.parsedHs = s.hs := by
  obtain ⟨f, hf, -⟩ := failure_of_parseHeader_err h
  exact if_neg (by simp [hf])

/-- IDEC ends with the report cleared, or it raises, and then has written COFF, and HS if the header
parsed. -/
theorem exec_idec_cases {k : Slot} (h : exec (.idec k) s = .next t) :
    s.clearReport.SameReport t ∨
      ∃ e c, "IDEC" ∈ e.kind.raisers ∧ t = s.failed e c s.parsedHs none := by
  have hpacket : ∀ x ∈ packetKinds, "IDEC" ∈ x.raisers := by decide
  have hheader : ∀ x ∈ [ErrKind.outOfBounds, .unexpectedValue, .unsupportedFormat], "IDEC" ∈ x.raisers := by
    decide
  obtain rfl : idecFinish (idecBegin k s) = t := Host.Outcome.next.inj h
  rcases idecBegin_cases k s with ⟨e, c, hp, eq⟩ | ⟨hdr, c, hp, hrest⟩
  · rw [eq, idecFinish_of_dec_none rfl, parsedHs_of_err hp]
    exact .inr ⟨e, c, hheader _ (kind_of_parseHeader_err hp), rfl⟩
  rw [parsedHs_of_ok hp]
  rcases hrest with ⟨-, e, c', hd, eq⟩ | ⟨-, pix, c', -, eq⟩ | ⟨-, eq⟩
  · rw [eq, idecFinish_of_dec_none rfl]
    exact .inr ⟨e, c', hheader _ (by simp [kind_of_decodeRaw_err hd]), rfl⟩
  · rw [eq, idecFinish_of_dec_none rfl]
    exact .inl ⟨rfl, rfl, rfl, rfl⟩
  · rw [eq]
    exact (idecFinish_cases _).imp_right fun ⟨e, c', he, eq'⟩ => ⟨e, c', hpacket _ he, eq'⟩

/-- Settles O28: in a failed IDEC nothing but COFF and HS has changed when it raises. -/
theorem failedIdecKeepsSlot : Obligations.FailedIdecKeepsSlot := by
  intro k s t hs h herr
  rcases exec_idec_cases h with ⟨hok, -⟩ | ⟨e, c, -, rfl⟩
  · exact absurd hok herr
  · exact congrArg (s.failed e c s.parsedHs) hs.symm

/-! ## The other commands -/

/-- A cursor command that can only fail where COFF stands (R174, R178). -/
theorem scan_ends {α : Type} {x : Scan α} (hx : ∀ e c, x = .err e c → mnemonicOf i ∈ e.kind.raisers ∧ c = s.coff)
    (ht : s.clearReport.SameReport t ∨ ∃ e c, x = .err e c ∧ t = s.clearReport.scanFailed e c) :
    CommandEnds i s t := by
  rcases ht with hok | ⟨e, c, he, rfl⟩
  · exact .done hok
  · obtain ⟨hi, rfl⟩ := hx e c he
    exact .raise (.kind hi)

theorem cursorMove_ends {x : Scan Unit}
    (hx : ∀ e c, x = .err e c → mnemonicOf i ∈ e.kind.raisers ∧ c = s.coff) :
    CommandEnds i s (cursorMove x s.clearReport) :=
  scan_ends hx ((cursorMove_cases x s.clearReport).imp_left fun ⟨_, _, _, eq⟩ => eq ▸ ⟨rfl, rfl, rfl, rfl⟩)

theorem cursorBytes_ends (n : BitVec 4) {x : Scan (List Byte)}
    (hx : ∀ e c, x = .err e c → mnemonicOf i ∈ e.kind.raisers ∧ c = s.coff) :
    CommandEnds i s (cursorBytes n x s.clearReport) :=
  scan_ends hx ((cursorBytes_cases n x s.clearReport).imp_left fun ⟨_, _, _, eq⟩ => eq ▸ ⟨rfl, rfl, rfl, rfl⟩)

/-- IGET and ISET fail alike: at a position outside the image, or over an invalid slot (R192, R193). -/
theorem pixelAccess_ends {k : Slot} (hi : i = .iget k ∨ i = .iset k) (h : exec i s = .next t) :
    CommandEnds i s t := by
  rcases hi with rfl | rfl
  all_goals
    simp only [exec, execIget, execIset] at h
    split_ifs at h <;> cases h
    · exact .done ⟨rfl, rfl, rfl, rfl⟩
    · exact .raise (.kind (by simp [invalidCoordinate, ErrKind.raisers, mnemonicOf]))
    · exact .raiseIllegal (by simp [IllegalReason.raisers, mnemonicOf])

/-- A command that makes a list of checks and reports the first that fails (R241). -/
theorem checked_ends {check : Option IllegalReason}
    (hfail : ∀ x, check = some x →
      mnemonicOf i ∈ x.raisers ∧ exec i s = .next (s.clearReport.raiseIllegal (cmdWord i) x))
    (hpass : check = none → s.clearReport.SameReport t) (h : exec i s = .next t) : CommandEnds i s t := by
  cases hc : check with
  | none => exact .done (hpass hc)
  | some x =>
    obtain ⟨hi, hexec⟩ := hfail x hc
    cases hexec.symm.trans h
    exact .raiseIllegal hi

section
variable {k : Slot} {tex : Option Slot} {zen : Bool} {x : IllegalReason}

theorem targetCheck_raisers (h : s.targetCheck k tex = some x) : "RENDER" ∈ x.raisers := by
  rw [targetCheck_eq] at h
  split_ifs at h <;> cases h <;> decide

theorem fillCheck_raisers (h : s.fillCheck k tex zen = some x) : "TRI" ∈ x.raisers ∧ "FACE" ∈ x.raisers := by
  rw [fillCheck_eq] at h
  split_ifs at h <;> cases h <;> decide

theorem exec_tri_ends (h : exec (.tri k tex zen) s = .next t) : CommandEnds (.tri k tex zen) s t := by
  refine checked_ends (fun x hx => ⟨(fillCheck_raisers hx).1, exec_tri_failed hx⟩) (fun hc => ?_) h
  cases (exec_tri_passed hc).symm.trans h
  exact ⟨rfl, rfl, rfl, rfl⟩

theorem exec_face_ends (h : exec (.face k tex zen) s = .next t) : CommandEnds (.face k tex zen) s t := by
  refine checked_ends (fun x hx => ⟨(fillCheck_raisers hx).2, exec_face_failed hx⟩) (fun hc => ?_) h
  cases (exec_face_passed hc).symm.trans h
  exact ⟨rfl, rfl, rfl, rfl⟩

theorem exec_render_ends (h : exec (.render k tex) s = .next t) : CommandEnds (.render k tex) s t := by
  refine checked_ends (fun x hx => ⟨targetCheck_raisers hx, exec_render_failed hx⟩) (fun hc => ?_) h
  by_cases hok : s.mesh.ok tex.isSome
  · cases (exec_render_ok hc hok).symm.trans h
    exact ⟨rfl, rfl, rfl, rfl⟩
  · cases (exec_render_refused hc hok).symm.trans h

end

/-! ## All commands -/

/-- Every command ends as R290, R297 and R301 list. -/
theorem exec_ends (hi : i.isCommand = true) (h : exec i s = .next t) : CommandEnds i s t := by
  cases i with
  | nop => cases h; exact .done ⟨rfl, rfl, rfl, rfl⟩
  | pack => cases h; exact .done ⟨rfl, rfl, rfl, rfl⟩
  | unpack => cases h; exact .done ⟨rfl, rfl, rfl, rfl⟩
  | from24 => cases h; exact .done ⟨rfl, rfl, rfl, rfl⟩
  | crd n =>
    cases h
    exact cursorBytes_ends n fun e c he =>
      ⟨by simp [kind_of_cursorRead_err he, ErrKind.raisers, mnemonicOf], (cursorRead_eq_err.1 he).2.2⟩
  | cpk n =>
    cases h
    exact cursorBytes_ends n fun e c he =>
      ⟨by simp [kind_of_cursorPeek_err he, ErrKind.raisers, mnemonicOf], coff_of_cursorPeek_err he⟩
  | csk =>
    cases h
    exact cursorMove_ends fun e c he =>
      ⟨by simp [kind_of_cursorSeek_err he, ErrKind.raisers, mnemonicOf], coff_of_cursorSeek_err he⟩
  | cac n =>
    cases h
    have hkinds : ∀ x ∈ [ErrKind.outOfBounds, .unexpectedValue], "CAC" ∈ x.raisers := by decide
    exact cursorMove_ends fun e c he => ⟨hkinds _ (kind_of_cursorAccept_err he), coff_of_cursorAccept_err he⟩
  | inew k =>
    rcases exec_inew_cases h with ⟨_, _, -, -, rfl⟩ | rfl
    · exact .done ⟨rfl, rfl, rfl, rfl⟩
    · exact .raiseIllegal (by simp [mnemonicOf, IllegalReason.raisers])
  | iget k => exact pixelAccess_ends (.inl rfl) h
  | iset k => exact pixelAccess_ends (.inr rfl) h
  | ihdr =>
    have hkinds : ∀ x ∈ [ErrKind.outOfBounds, .unexpectedValue, .unsupportedFormat], "IHDR" ∈ x.raisers := by
      decide
    rcases exec_ihdr_cases h with ⟨hdr, c, -, rfl⟩ | ⟨e, c, he, rfl⟩
    · exact .done ⟨rfl, rfl, rfl, rfl⟩
    · exact .failed (.kind (hkinds _ (kind_of_parseHeader_err he))) (.inr (by decide)) (.inl rfl) (.inl rfl)
  | idec k =>
    rcases exec_idec_cases h with hok | ⟨e, c, he, rfl⟩
    · exact .done hok
    · exact .failed (.kind he) (.inr (by simp [mnemonicOf])) (.inr rfl) (.inr rfl)
  | ienc k =>
    rcases exec_ienc_cases h with rfl | rfl
    · exact .done ⟨rfl, rfl, rfl, rfl⟩
    · exact .raiseIllegal (by simp [mnemonicOf, IllegalReason.raisers])
  | zclr k =>
    rcases exec_zclr_cases h with rfl | rfl
    · exact .done ⟨rfl, rfl, rfl, rfl⟩
    · exact .raiseIllegal (by simp [mnemonicOf, IllegalReason.raisers])
  | line k =>
    rcases exec_line_cases h with ⟨-, rfl⟩ | rfl
    · exact .done ⟨rfl, rfl, rfl, rfl⟩
    · exact .raiseIllegal (by simp [mnemonicOf, IllegalReason.raisers])
  | tri k tex zen => exact exec_tri_ends h
  | face k tex zen => exact exec_face_ends h
  | render k tex => exact exec_render_ends h
  | raw n => cases hi
  | run n => cases hi

/-- Between commands no packet is executed (R102). -/
theorem isCommand_of_exec (hs : s.dec = none) (h : exec i s = .next t) : i.isCommand = true := by
  cases i with
  | raw n => cases (exec_raw_of_dec_none hs n).symm.trans h
  | run n => cases (exec_run_of_dec_none hs n).symm.trans h
  | _ => rfl

/-- Settles O55: a raise leaves what `State.failed` says, and only the commands named there move COFF or
write HS. -/
theorem errorsArePrecise : Obligations.ErrorsArePrecise := by
  intro i s t hs h herr
  cases exec_ends (isCommand_of_exec hs h) h with
  | done hok => exact absurd hok.1 herr
  | @failed e coff stg dec he hcoff hhs hdec =>
    obtain rfl : dec = s.dec := hdec.elim id fun hnone => hnone.trans hs.symm
    refine ⟨fun hi => ?_, fun hi => ?_, fun _ => rfl⟩
    · obtain rfl := hcoff.resolve_right fun hw => by
        rcases List.mem_pair.1 hw with hw | hw <;> simp [hw] at hi
      obtain rfl := hhs.resolve_right fun hw => by simp [hw] at hi
      rfl
    · obtain rfl := hhs.resolve_right fun hw => by simp [hw] at hi
      rfl

/-- Settles O56: the report is clear, or of a kind or a reason whose row names the command. -/
theorem kindsAreRaisedByTheirCommands : Obligations.KindsAreRaisedByTheirCommands := by
  intro i s t hi h
  cases exec_ends hi h with
  | done hok => exact .inl hok
  | @failed e _ _ _ he =>
    refine .inr ?_
    cases he with
    | kind hrow =>
      obtain ⟨kind, i0, i1, off⟩ := e
      cases kind with
      | outOfBounds => exact .inl ⟨rfl, hrow⟩
      | unexpectedValue => exact .inr (.inl ⟨rfl, hrow⟩)
      | unsupportedFormat => exact .inr (.inr (.inl ⟨rfl, hrow⟩))
      | invalidCoordinate => exact .inr (.inr (.inr (.inl ⟨rfl, hrow⟩)))
      | malformedStream => exact .inr (.inr (.inr (.inr (.inl ⟨rfl, List.mem_singleton.1 hrow⟩))))
      | illegalOperation => cases hrow
    | illegal x off hrow =>
      refine .inr (.inr (.inr (.inr (.inr ⟨rfl, rfl, ?_⟩))))
      cases x with
      | word => cases hrow
      | slot => exact .inl ⟨rfl, hrow⟩
      | texture => exact .inr (.inl ⟨rfl, hrow⟩)
      | depth => exact .inr (.inr (.inl ⟨rfl, hrow⟩))
      | vertex => exact .inr (.inr (.inr (.inl ⟨rfl, hrow⟩)))
      | dimension => exact .inr (.inr (.inr (.inr ⟨rfl, List.mem_singleton.1 hrow⟩)))

/-- Settles O12: NOP is step (1) of every command and nothing after it. -/
theorem nopOnlyClearsReport : Obligations.NopOnlyClearsReport :=
  ⟨by decide, fun s => congrArg Host.Outcome.next (clearReport_eq_okFrom s)⟩

end Sys2Proof.Machine
end

section
/-! What the host does between commands (70_reset_and_hazards.md R339), and that every command it starts ends in a
next state (R346, 60_exceptions.md R303). -/

namespace Sys2Proof.Machine

variable {s : State}

/-! ## The register map (10_state.md R28) -/

/-- The register numbers that R28 lets the host read: the fixed ones, three headers, A and R. -/
def readableNumbers : List Nat :=
  List.range' 1 10 ++ List.range' 0x20 11 ++ List.range' 0x30 11 ++ List.range' 0x40 11 ++
    List.range' 0x50 16 ++ List.range' 0x60 4

theorem mem_readableNumbers {num : Nat} :
    num ∈ readableNumbers ↔ (1 ≤ num ∧ num ≤ 10) ∨ (0x20 ≤ num ∧ num ≤ 0x2A) ∨ (0x30 ≤ num ∧ num ≤ 0x3A) ∨
      (0x40 ≤ num ∧ num ≤ 0x4A) ∨ (0x50 ≤ num ∧ num < 0x60) ∨ (0x60 ≤ num ∧ num < 0x64) := by
  simp only [readableNumbers, List.mem_append, List.mem_range'_1]
  omega

/-- The fixed numbers and the three headers are evaluated; A and R go by their index. -/
theorem readReg_isSome {num : Nat} (h : num ∈ readableNumbers) : (s.readReg num).isSome := by
  rcases mem_readableNumbers.1 h with ⟨h1, h2⟩ | ⟨h1, h2⟩ | ⟨h1, h2⟩ | ⟨h1, h2⟩ | ⟨h1, h2⟩ | ⟨h1, h2⟩
  · interval_cases num <;> rfl
  · interval_cases num <;> rfl
  · interval_cases num <;> rfl
  · interval_cases num <;> rfl
  · obtain ⟨i, rfl⟩ := Nat.exists_eq_add_of_le h1
    exact Option.isSome_iff_exists.2 ⟨_, readReg_a s ⟨i, by omega⟩⟩
  · obtain ⟨i, rfl⟩ := Nat.exists_eq_add_of_le h1
    exact Option.isSome_iff_exists.2 ⟨_, readReg_r s ⟨i, by omega⟩⟩

/-! ## Host actions (R339, R330) -/

theorem hostReadReg_of_isSome {num : Nat} (h : (s.readReg num).isSome) : hostReadReg num s = .next s := by
  obtain ⟨v, hv⟩ := Option.isSome_iff_exists.1 h
  rw [hostReadReg, hv]

/-- A host write of number 0x50 + i writes A[i]. -/
theorem hostWriteReg_a (i : Fin 16) (v : Dword) : hostWriteReg (0x50 + i) v s = .next (s.setA i v) := by
  have hi : Fin.ofNat 16 (0x50 + i.1 - 0x50) = i := by rw [Nat.add_sub_cancel_left]; exact Fin.ofNat_val_eq_self i
  rw [hostWriteReg, if_pos (by omega), hi]

/-- Of the numbered registers only number 0x00 is CMD (R29). -/
theorem stepHost_writeReg {num : Nat} (h : num ≠ 0x00) (v : Dword) :
    stepHost (.writeReg num v) s = hostWriteReg num v s := by
  rw [stepHost, HostAction.cmdWrite, if_neg h]
  rfl

/-- Settles O59: the action leaves the queue, and each kind of action has its own effect. -/
theorem hostActionsEffects : Obligations.HostActionsEffects := by
  intro s act rest hdec hhost
  rw [step_of_host hdec hhost]
  refine ⟨?loadSrc, ?writeReg, ?command, ?readReg, ?emptySnk, ?readMemory, ?setMesh, ?reset⟩
  case loadSrc => rintro b rfl; rfl
  case writeReg =>
    rintro i v rfl
    exact (stepHost_writeReg (by omega) v).trans (hostWriteReg_a i v)
  case command => rintro w rfl; rfl
  case readReg =>
    rintro num rfl hnum
    exact hostReadReg_of_isSome (readReg_isSome hnum)
  case emptySnk => rintro rfl; rfl
  case readMemory =>
    rintro (rfl | rfl | ⟨k, rfl⟩)
    · rfl
    · rfl
    · rfl
  case setMesh => rintro m rfl; rfl
  case reset => rintro rfl; exact ⟨_, _, rfl⟩

/-! ## Every command completes (R303, R346) -/

/-- TRI, FACE, LINE and ZCLR end in a next state, whether their checks pass or fail (R241). -/
theorem exec_raster_next {i : Instr} {o : RasterOperands} (hi : rasterOperands i = some o)
    (hrender : ∀ k tex, i ≠ .render k tex) : ∃ t, exec i s = .next t := by
  cases hcheck : s.rasterFailure o with
  | none => exact (exec_raster_passed hi hcheck hrender).imp fun _ h => h.1
  | some r =>
    obtain ⟨x, hexec, -⟩ := exec_raster_failed hi hcheck
    exact ⟨_, hexec⟩

theorem exec_render_next {k : Slot} {tex : Option Slot} (hok : s.mesh.ok tex.isSome) :
    ∃ t, exec (.render k tex) s = .next t := by
  cases hcheck : s.targetCheck k tex with
  | none => exact ⟨_, exec_render_ok hcheck hok⟩
  | some x => exact ⟨_, exec_render_failed hcheck⟩

/-- A test between two next states is a next state. -/
theorem ite_next {c : Prop} [Decidable c] {x y : Host.Outcome State Fault Refusal} (hx : ∃ t, x = .next t)
    (hy : ∃ t, y = .next t) : ∃ t, (if c then x else y) = .next t := by
  split
  · exact hx
  · exact hy

/-- Settles O57: no command's meaning has another end than a next state, but RENDER's over a view that breaks
R70. -/
theorem everyCommandCompletes : Obligations.EveryCommandCompletes := by
  intro i s hi hmesh
  cases i with
  | inew k => exact ite_next ⟨_, rfl⟩ ⟨_, rfl⟩
  | iget k => exact ite_next (ite_next ⟨_, rfl⟩ ⟨_, rfl⟩) ⟨_, rfl⟩
  | iset k => exact ite_next (ite_next ⟨_, rfl⟩ ⟨_, rfl⟩) ⟨_, rfl⟩
  | ihdr =>
    simp only [exec, execIhdr]
    split
    · exact ⟨_, rfl⟩
    · exact ⟨_, rfl⟩
  | ienc k => exact ite_next ⟨_, rfl⟩ ⟨_, rfl⟩
  | zclr k => exact exec_raster_next rfl (by simp)
  | line k => exact exec_raster_next rfl (by simp)
  | tri k tex zen => exact exec_raster_next rfl (by simp)
  | face k tex zen => exact exec_raster_next rfl (by simp)
  | render k tex => exact exec_render_next (hmesh k tex rfl)
  | raw n => cases hi
  | run n => cases hi
  | _ => exact ⟨_, rfl⟩

end Sys2Proof.Machine
end

section
/-! Who writes the image slots and the depth buffer (10_state.md R34, R36, 70_reset_and_hazards.md R340): a fill
without depth test leaves the depth buffer, IDEC's packets write the slot that the decode names, and every other
write is in the command's meaning. -/

namespace Sys2Proof.Machine

/-! ## A fill without depth test (44_rasterizer.md R257, R260) -/

section
variable {t : Target} {f : Fill} (hz : f.zen = false)
include hz

/-- Without depth test the pixels do not depend on the depths, which stay. -/
theorem fillPixel_without_zen (m : Inverse) (q : Nat × Nat) (p : PixMem) (d d' : DepthMem) :
    fillPixel t f m ⟨p, d⟩ q = ⟨(fillPixel t f m ⟨p, d'⟩ q).pix, d⟩ := by
  simp only [fillPixel, fragment, depthPasses, hz, Bool.not_false, Bool.true_or]
  split <;> rfl

theorem scan_without_zen (m : Inverse) (qs : List (Nat × Nat)) (p : PixMem) (d d' : DepthMem) :
    qs.foldl (fillPixel t f m) ⟨p, d⟩ = ⟨(qs.foldl (fillPixel t f m) ⟨p, d'⟩).pix, d⟩ := by
  induction qs generalizing p with
  | nil => rfl
  | cons q qs ih =>
    rw [List.foldl_cons, List.foldl_cons, fillPixel_without_zen hz m q p d d', ih,
      ← fillPixel_without_zen hz m q p d' d']

theorem fillTriangle_without_zen (p : PixMem) (d d' : DepthMem) :
    fillTriangle t f ⟨p, d⟩ = ⟨(fillTriangle t f ⟨p, d'⟩).pix, d⟩ := by
  unfold fillTriangle
  split
  · rfl
  · exact scan_without_zen hz _ _ p d d'

end

theorem shadeAndFill_without_zen (t : Target) (v : Triangle) (tex : Option Texture) (p : PixMem) (d d' : DepthMem) :
    shadeAndFill t v tex false ⟨p, d⟩ = ⟨(shadeAndFill t v tex false ⟨p, d'⟩).pix, d⟩ := by
  unfold shadeAndFill
  split
  · rfl
  · exact fillTriangle_without_zen rfl p d d'

section
variable {s t : State} {i : Instr}

/-! ## The packets of IDEC (43_codec.md R207, R210) -/

/-- On the way from `s` to `t` no image was written but that of slot `k`, and a decode still in progress is one
of slot `k`. -/
structure State.DecodesInto (k : Slot) (s t : State) : Prop where
  img : ∀ j ≠ k, t.img j = s.img j
  dec : ∀ d ∈ t.dec, d.slot = k

theorem State.DecodesInto.trans {k : Slot} {u : State} (h : s.DecodesInto k t) (g : t.DecodesInto k u) :
    s.DecodesInto k u :=
  ⟨fun j hj => (g.img j hj).trans (h.img j hj), g.dec⟩

theorem abortDecode_decodesInto (k : Slot) (e : Report) (c : Nat) : s.DecodesInto k (s.abortDecode e c) :=
  ⟨fun j _ => State.abortDecode_img s e c j, by simp⟩

theorem producePixels_decodesInto (d : Decoding) (ps : List Word) (c : Nat) :
    s.DecodesInto d.slot (s.producePixels d ps c) := by
  rcases producePixels_cases s d ps c with ⟨-, eq⟩ | ⟨-, eq⟩
  · exact eq ▸ ⟨fun j _ => by simp, by simp⟩
  · exact eq ▸ ⟨fun j hj => by simp [State.commitImage_img_ne _ _ _ _ j hj], by simp⟩

theorem packetBody_decodesInto (cnt : Nat) (payload : Nat → Scan (List Word)) (d : Decoding) (s : State) :
    s.DecodesInto d.slot (packetBody cnt payload d s) := by
  rcases packetBody_cases cnt payload d s with ⟨-, eq⟩ | ⟨-, e, c, -, eq⟩ | ⟨-, ps, c, -, eq⟩
  · exact eq ▸ abortDecode_decodesInto _ _ _
  · exact eq ▸ abortDecode_decodesInto _ e c
  · exact eq ▸ producePixels_decodesInto d ps c

theorem packetIteration_decodesInto (d : Decoding) (s : State) :
    s.DecodesInto d.slot (packetIteration d s) := by
  unfold packetIteration
  rcases fetchRep_cases s with ⟨-, eq⟩ | ⟨-, eq⟩
  · rw [eq]
    exact abortDecode_decodesInto _ _ _
  · have hfetch {u : State} (h : (s.setCoff (s.coff + 1)).DecodesInto d.slot u) : s.DecodesInto d.slot u :=
      ⟨fun j hj => (h.img j hj).trans (State.setCoff_img s _ j), h.dec⟩
    simp only [eq]
    split
    · exact hfetch (packetBody_decodesInto _ _ d _)
    · exact hfetch (packetBody_decodesInto _ _ d _)

theorem packetLoop_decodesInto {k : Slot} (fuel : Nat) (hs : ∀ d ∈ s.dec, d.slot = k) :
    s.DecodesInto k (packetLoop fuel s) := by
  induction fuel generalizing s with
  | zero => exact ⟨fun _ _ => rfl, hs⟩
  | succ fuel ih =>
    cases hd : s.dec with
    | none =>
      rw [packetLoop_of_dec_none hd]
      exact ⟨fun _ _ => rfl, hs⟩
    | some d =>
      rw [packetLoop_succ_of_dec hd]
      have hiter := packetIteration_decodesInto d s
      rw [hs d hd] at hiter
      exact hiter.trans (ih hiter.dec)

theorem idecFinish_decodesInto {k : Slot} (hs : ∀ d ∈ s.dec, d.slot = k) : s.DecodesInto k (idecFinish s) := by
  unfold idecFinish
  split
  · exact ⟨fun _ _ => rfl, hs⟩
  · exact packetLoop_decodesInto _ hs

theorem idecBegin_decodesInto (k : Slot) (s : State) : s.DecodesInto k (idecBegin k s) := by
  refine ⟨fun j hj => ?_, fun d hd => ?_⟩
  · rcases idecBegin_cases k s with
      ⟨e, c, -, eq⟩ | ⟨hdr, c, -, ⟨-, e, c', -, eq⟩ | ⟨-, pix, c', -, eq⟩ | ⟨-, eq⟩⟩
    · simp [eq]
    · simp [eq]
    · simp [eq, State.commitImage_img_ne _ _ _ _ j hj]
    · simp [eq]
  · obtain ⟨rfl, -⟩ := idecBegin_dec d hd
    rfl

/-- IDEC writes no image but that of its slot. -/
theorem execIdec_img (k : Slot) (s : State) {j : Slot} (hj : j ≠ k) :
    (idecFinish (idecBegin k s)).img j = s.img j :=
  have hbegin := idecBegin_decodesInto k s
  (hbegin.trans (idecFinish_decodesInto hbegin.dec)).img j hj

theorem execIdec_zb (k : Slot) (s : State) : (idecFinish (idecBegin k s)).zb = s.zb := by
  obtain ⟨_, hframe⟩ := execIdec_frame k s
  exact hframe.zb

/-! ## All commands (R340) -/

/-- The slot whose image the command may write. -/
def slotWrittenBy : Instr → Option Slot
  | .inew k => some k
  | .iset k => some k
  | .idec k => some k
  | .line k => some k
  | .tri k _ _ => some k
  | .face k _ _ => some k
  | .render k _ => some k
  | _ => none

/-- The command may write the depth buffer. -/
def writesDepth : Instr → Bool
  | .zclr _ => true
  | .render _ _ => true
  | .tri _ _ zen => zen
  | .face _ _ zen => zen
  | _ => false

/-- What instruction `i` leaves of the image slots and the depth buffer on its way from `s` to `t`. -/
structure LeavesBuffers (i : Instr) (s t : State) : Prop where
  img : ∀ j, slotWrittenBy i ≠ some j → t.img j = s.img j
  zb : writesDepth i = false → t.zb = s.zb

/-- A command that writes no buffer. -/
theorem LeavesBuffers.of_eq (h0 : t.img0 = s.img0) (h1 : t.img1 = s.img1) (hz : t.zb = s.zb) :
    LeavesBuffers i s t := by
  refine ⟨fun j _ => ?_, fun _ => hz⟩
  cases j with
  | s0 => exact h0
  | s1 => exact h1

/-- A command that writes its slot. -/
theorem LeavesBuffers.of_setImg {k : Slot} (hi : slotWrittenBy i = some k) (im : Image) :
    LeavesBuffers i s (s.clearReport.setImg k im) :=
  ⟨fun j hj => (State.setImg_img_ne _ k im j fun e => hj (e ▸ hi)).trans (State.clearReport_img s j), fun _ => rfl⟩

/-- A write of the depth buffer by a command that may, or one that changes nothing. -/
theorem LeavesBuffers.setZb (h : LeavesBuffers i s t) {z : DepthBuffer} (hz : writesDepth i = false → z = s.zb) :
    LeavesBuffers i s (t.setZb z) :=
  ⟨fun j hj => (State.setZb_img t z j).trans (h.img j hj), hz⟩

theorem cursorBytes_leavesBuffers (n : BitVec 4) (x : Scan (List Byte)) :
    LeavesBuffers i s (cursorBytes n x s.clearReport) := by
  rcases cursorBytes_cases n x s.clearReport with ⟨b, c, -, eq⟩ | ⟨e, c, -, eq⟩
  · exact eq ▸ .of_eq rfl rfl rfl
  · exact eq ▸ .of_eq rfl rfl rfl

theorem cursorMove_leavesBuffers (x : Scan Unit) : LeavesBuffers i s (cursorMove x s.clearReport) := by
  rcases cursorMove_cases x s.clearReport with ⟨u, c, -, eq⟩ | ⟨e, c, -, eq⟩
  · exact eq ▸ .of_eq rfl rfl rfl
  · exact eq ▸ .of_eq rfl rfl rfl

/-- TRI and FACE write the depths only with depth test. -/
theorem setCanvas_leavesBuffers {k : Slot} {c : Canvas} (hi : slotWrittenBy i = some k)
    (hc : writesDepth i = false → c.depth = s.zb.d) : LeavesBuffers i s (s.clearReport.setCanvas k c) :=
  (LeavesBuffers.of_setImg hi _).setZb fun hz => congrArg (fun d => { s.zb with d := d }) (hc hz)

/-- What every command leaves of the buffers. -/
theorem exec_leavesBuffers (hs : s.dec = none) (h : exec i s = .next t) : LeavesBuffers i s t := by
  cases i with
  | nop => cases h; exact .of_eq rfl rfl rfl
  | pack => cases h; exact .of_eq rfl rfl rfl
  | unpack => cases h; exact .of_eq rfl rfl rfl
  | from24 => cases h; exact .of_eq rfl rfl rfl
  | crd n => cases h; exact cursorBytes_leavesBuffers n _
  | cpk n => cases h; exact cursorBytes_leavesBuffers n _
  | csk => cases h; exact cursorMove_leavesBuffers _
  | cac n => cases h; exact cursorMove_leavesBuffers _
  | inew k =>
    rcases exec_inew_cases h with ⟨_, _, -, -, rfl⟩ | rfl
    · exact .of_setImg rfl _
    · exact .of_eq rfl rfl rfl
  | iget k =>
    rcases exec_iget_cases h with ⟨v, rfl⟩ | ⟨e, rfl⟩
    · exact .of_eq rfl rfl rfl
    · exact .of_eq rfl rfl rfl
  | iset k =>
    rcases exec_iset_cases h with ⟨-, -, rfl⟩ | ⟨e, rfl⟩
    · exact .of_setImg rfl _
    · exact .of_eq rfl rfl rfl
  | ihdr =>
    rcases exec_ihdr_cases h with ⟨hdr, c, -, rfl⟩ | ⟨e, c, -, rfl⟩
    · exact .of_eq rfl rfl rfl
    · exact .of_eq rfl rfl rfl
  | idec k =>
    cases h
    exact ⟨fun j hj => execIdec_img k s fun e => hj (congrArg some e.symm), fun _ => execIdec_zb k s⟩
  | ienc k =>
    rcases exec_ienc_cases h with rfl | rfl
    · exact .of_eq rfl rfl rfl
    · exact .of_eq rfl rfl rfl
  | zclr k =>
    rcases exec_zclr_cases h with rfl | rfl
    · have hclear : LeavesBuffers (.zclr k) s s.clearReport := .of_eq rfl rfl rfl
      exact hclear.setZb (by simp [writesDepth])
    · exact .of_eq rfl rfl rfl
  | line k =>
    rcases exec_line_cases h with ⟨-, rfl⟩ | rfl
    · exact .of_setImg rfl _
    · exact .of_eq rfl rfl rfl
  | tri k tex zen =>
    rcases exec_tri_cases h with ⟨-, rfl⟩ | ⟨r, rfl⟩
    · refine setCanvas_leavesBuffers rfl fun hz => ?_
      exact congrArg Canvas.depth (fillTriangle_without_zen hz (s.img k).pix s.zb.d s.zb.d)
    · exact .of_eq rfl rfl rfl
  | face k tex zen =>
    rcases exec_face_cases h with ⟨-, rfl⟩ | ⟨r, rfl⟩
    · refine setCanvas_leavesBuffers rfl fun hz => ?_
      obtain rfl : zen = false := hz
      exact congrArg Canvas.depth (shadeAndFill_without_zen _ _ _ (s.img k).pix s.zb.d s.zb.d)
    · exact .of_eq rfl rfl rfl
  | render k tex =>
    rcases exec_render_cases h with ⟨-, ts, rfl⟩ | ⟨r, rfl⟩
    · exact (LeavesBuffers.of_setImg rfl _).setZb (by simp [writesDepth])
    · exact .of_eq rfl rfl rfl
  | raw n => cases (exec_raw_of_dec_none hs n).symm.trans h
  | run n => cases (exec_run_of_dec_none hs n).symm.trans h

/-- The commands that write slot `j`, as R340 names them. -/
theorem named_of_slotWrittenBy {j : Slot} (h : slotWrittenBy i = some j) :
    i ∈ [Instr.inew j, .iset j, .idec j, .line j] ∨
      ∃ tex zen, i = .tri j tex zen ∨ i = .face j tex zen ∨ i = .render j tex := by
  cases i with
  | inew k => cases h; simp
  | iset k => cases h; simp
  | idec k => cases h; simp
  | line k => cases h; simp
  | tri k tex zen => cases h; exact .inr ⟨tex, zen, .inl rfl⟩
  | face k tex zen => cases h; exact .inr ⟨tex, zen, .inr (.inl rfl)⟩
  | render k tex => cases h; exact .inr ⟨tex, false, .inr (.inr rfl)⟩
  | _ => cases h

theorem named_of_writesDepth (h : writesDepth i = true) :
    ∃ k tex, i = .zclr k ∨ i = .render k tex ∨ i = .tri k tex true ∨ i = .face k tex true := by
  cases i with
  | zclr k => exact ⟨k, none, .inl rfl⟩
  | render k tex => exact ⟨k, tex, .inr (.inl rfl)⟩
  | tri k tex zen => obtain rfl : zen = true := h; exact ⟨k, tex, .inr (.inr (.inl rfl))⟩
  | face k tex zen => obtain rfl : zen = true := h; exact ⟨k, tex, .inr (.inr (.inr rfl))⟩
  | _ => cases h

/-- Settles O54: the commands that may write a buffer are those that the statement names. -/
theorem onlyNamedBuffersChange : Obligations.OnlyNamedBuffersChange := by
  intro i s t hs h
  obtain ⟨himg, hzb⟩ := exec_leavesBuffers hs h
  refine ⟨fun j hi hraster => himg j fun hw => ?_, fun hdepth => hzb (Bool.eq_false_iff.2 fun hw => ?_)⟩
  · rcases named_of_slotWrittenBy hw with hmem | ⟨tex, zen, hname⟩
    · exact hi hmem
    · have := hraster tex zen
      tauto
  · obtain ⟨k, tex, hname⟩ := named_of_writesDepth hw
    have := hdepth k tex
    tauto

end

end Sys2Proof.Machine
end

section
/-! A command uses no buffer that its word does not name (70_reset_and_hazards.md R340, R343): a change of a buffer
that the command neither reads nor writes can be made before it or after it. -/

namespace Sys2Proof.Machine

variable {k : Slot} {tex : Option Slot} {F : State → State} {s t : State}

/-! ## Changes that a command does not see -/

/-- `F` changes a buffer that a command on slot `k` with texture `tex` does not see: it leaves what such a command
reads, and commutes with the updates that it makes. -/
structure Unseen (k : Slot) (tex : Option Slot) (F : State → State) : Prop where
  a : ∀ s, (F s).a = s.a
  coff : ∀ s, (F s).coff = s.coff
  mesh : ∀ s, (F s).mesh = s.mesh
  target : ∀ s, (F s).img k = s.img k
  texture : ∀ j, tex = some j → ∀ s, (F s).img j = s.img j
  clearReport : ∀ s, (F s).clearReport = F s.clearReport
  raise : ∀ s e, (F s).raise e = F (s.raise e)
  setR : ∀ s i v, (F s).setR i v = F (s.setR i v)
  snkAppend : ∀ s b, (F s).snkAppend b = F (s.snkAppend b)
  setPix : ∀ s m, (F s).setPix k m = F (s.setPix k m)

/-- The same of a change that is not to the depth buffer. -/
structure UnseenImage (k : Slot) (tex : Option Slot) (F : State → State) : Prop extends Unseen k tex F where
  zb : ∀ s, (F s).zb = s.zb
  setZb : ∀ s z, (F s).setZb z = F (s.setZb z)

theorem unseen_setZb (k : Slot) (tex : Option Slot) (z : DepthBuffer) : Unseen k tex (·.setZb z) where
  a _ := rfl
  coff _ := rfl
  mesh _ := rfl
  target s := State.setZb_img s z k
  texture j _ s := State.setZb_img s z j
  clearReport _ := rfl
  raise _ _ := rfl
  setR _ _ _ := rfl
  snkAppend _ _ := rfl
  setPix s m := by cases k <;> rfl

/-- Writes of different slots can be made in either order. -/
theorem setImg_comm {j : Slot} (hj : j ≠ k) (s : State) (im im' : Image) :
    (s.setImg j im).setImg k im' = (s.setImg k im').setImg j im := by
  cases j with
  | s0 =>
    cases k with
    | s0 => exact absurd rfl hj
    | s1 => rfl
  | s1 =>
    cases k with
    | s0 => rfl
    | s1 => exact absurd rfl hj

/-- A slot that is neither target nor texture is not seen. -/
theorem unseen_setImg {j : Slot} (hj : j ≠ k) (htex : tex ≠ some j) (im : Image) :
    UnseenImage k tex (·.setImg j im) where
  a _ := rfl
  coff _ := rfl
  mesh _ := rfl
  target s := State.setImg_img_ne s j im k hj.symm
  texture i hi s := State.setImg_img_ne s j im i fun e => htex (e ▸ hi)
  clearReport _ := rfl
  raise _ _ := rfl
  setR _ _ _ := rfl
  snkAppend _ _ := rfl
  setPix s m := by
    rw [State.setPix, State.setPix, State.setImg_img_ne s j im k hj.symm]
    exact setImg_comm hj s im _
  zb _ := rfl
  setZb _ _ := rfl

namespace Unseen

/-! ## What the command reads -/

section
variable (hF : Unseen k tex F) (s : State)
include hF

theorem areg (i : Fin 16) : (F s).areg i = s.areg i := by rw [State.areg, State.areg, hF.a]

theorem argFull (i : Fin 16) : (F s).argFull i = s.argFull i := by rw [State.argFull, State.argFull, hF.areg]

theorem argColor (i : Fin 16) : (F s).argColor i = s.argColor i := by rw [State.argColor, State.argColor, hF.areg]

theorem argCoord (i : Fin 16) : (F s).argCoord i = s.argCoord i := by rw [State.argCoord, State.argCoord, hF.areg]

theorem argTriangle : (F s).argTriangle = s.argTriangle := by
  simp only [State.argTriangle, State.argF64, hF.areg]

theorem argTexCoords : (F s).argTexCoords = s.argTexCoords := by
  simp only [State.argTexCoords, State.argF64, hF.areg]

theorem imgW : (F s).imgW k = s.imgW k := by rw [State.imgW, State.imgW, hF.target]

theorem imgH : (F s).imgH k = s.imgH k := by rw [State.imgH, State.imgH, hF.target]

theorem inImage (x y : Nat) : (F s).inImage k x y = s.inImage k x y := by
  rw [State.inImage, State.inImage, hF.imgW, hF.imgH]

theorem targetOf : (F s).target k = s.target k := by
  rw [State.target, State.target, hF.imgW, hF.imgH]

theorem textureOf (tc : TexCoords) : (F s).texture tex tc = s.texture tex tc := by
  cases tex with
  | none => rfl
  | some j => simp only [State.texture, State.imgW, State.imgH, Option.map_some, hF.texture j rfl]

theorem triFill (zen : Bool) : (F s).triFill tex zen = s.triFill tex zen := by
  simp only [State.triFill, hF.argTriangle, hF.argTexCoords, hF.textureOf, hF.argColor]

theorem faceFill : (F s).faceFill k tex = s.faceFill k tex := by
  funext c f
  simp only [State.faceFill, hF.targetOf, hF.textureOf, hF.mesh]

theorem invalidCoordinate : Machine.invalidCoordinate (F s) = Machine.invalidCoordinate s := by
  simp only [Machine.invalidCoordinate, hF.areg, hF.coff]

/-- The checks (1) and (2) of R241. -/
theorem targetCheck : (F s).targetCheck k tex = s.targetCheck k tex := by
  have htexture : (F s).textureValid tex = s.textureValid tex := by
    cases tex with
    | none => rfl
    | some j => simp only [State.textureValid, hF.texture j rfl]
  rw [State.targetCheck, State.targetCheck, hF.target, htexture]

theorem withoutTexture : Unseen k none F := { hF with texture := fun _ h => by cases h }

/-- All checks of R241, with depth test only where the depth buffer is the same. -/
theorem fillCheck {zen : Bool} (hz : zen = true → (F s).zb = s.zb) :
    (F s).fillCheck k tex zen = s.fillCheck k tex zen := by
  have hdepth : (zen && !(F s).depthFits k) = (zen && !s.depthFits k) := by
    cases zen with
    | false => rfl
    | true => rw [State.depthFits, State.depthFits, hz rfl, hF.target]
  rw [State.fillCheck, State.fillCheck, hF.targetCheck, hdepth, hF.argTriangle]

theorem raiseIllegal (w : Word) (x : IllegalReason) : (F s).raiseIllegal w x = F (s.raiseIllegal w x) := by
  rw [State.raiseIllegal, hF.coff, hF.raise]
  rfl

end

/-! ## Commands that use no depth buffer -/

section
variable (hF : Unseen k tex F)
include hF

theorem exec_iget (h : exec (.iget k) s = .next t) : exec (.iget k) (F s) = .next (F t) := by
  simp only [exec, execIget, hF.target, hF.inImage, hF.argFull, hF.imgW, hF.clearReport, hF.setR,
    hF.invalidCoordinate, hF.raise, hF.raiseIllegal] at h ⊢
  split_ifs at h ⊢
  · cases h; rfl
  · cases h; rfl
  · cases h; rfl

theorem exec_iset (h : exec (.iset k) s = .next t) : exec (.iset k) (F s) = .next (F t) := by
  simp only [exec, execIset, hF.target, hF.inImage, hF.argFull, hF.argColor, hF.imgW, hF.clearReport, hF.setPix,
    hF.invalidCoordinate, hF.raise, hF.raiseIllegal] at h ⊢
  split_ifs at h ⊢
  · cases h; rfl
  · cases h; rfl
  · cases h; rfl

theorem exec_ienc (h : exec (.ienc k) s = .next t) : exec (.ienc k) (F s) = .next (F t) := by
  simp only [exec, execIenc, hF.target, hF.clearReport, hF.snkAppend, hF.raiseIllegal] at h ⊢
  split_ifs at h ⊢
  · cases h; rfl
  · cases h; rfl

theorem exec_line (h : exec (.line k) s = .next t) : exec (.line k) (F s) = .next (F t) := by
  simp only [exec, execLine, hF.target, hF.targetOf, hF.argCoord, hF.argColor, hF.clearReport, hF.setPix,
    hF.raiseIllegal] at h ⊢
  split_ifs at h ⊢
  · cases h; rfl
  · cases h; rfl

/-- A failing check, which gives the same report before `F` and after it. -/
theorem exec_failed {i : Instr} {check : State → Option IllegalReason} {x : IllegalReason}
    (hfail : ∀ {s}, check s = some x → exec i s = .next (s.clearReport.raiseIllegal (cmdWord i) x))
    (hcheck : check (F s) = check s) (hx : check s = some x) (h : exec i s = .next t) :
    exec i (F s) = .next (F t) ∧ t.err ≠ 0#8 := by
  cases (hfail hx).symm.trans h
  rw [hfail (hcheck.trans hx), hF.clearReport, hF.raiseIllegal]
  exact ⟨rfl, show 7#8 ≠ 0#8 by decide⟩

end

end Unseen

/-- Without depth test TRI writes the pixels alone, whatever the depths are (R257, R260). -/
theorem exec_tri_without_zen (h : s.fillCheck k tex false = none) :
    exec (.tri k tex false) s = .next (s.clearReport.setPix k
      (fillTriangle (s.target k) (s.triFill tex false) ⟨(s.img k).pix, Memory.empty⟩).pix) := by
  rw [exec_tri_passed h, State.canvas, fillTriangle_without_zen rfl _ _ Memory.empty]
  exact congrArg _ (setCanvas_same_depth s k _)

theorem exec_face_without_zen (h : s.fillCheck k tex false = none) :
    exec (.face k tex false) s = .next (s.clearReport.setPix k (shadeAndFill (s.target k) s.argTriangle
      (s.texture tex s.argTexCoords) false ⟨(s.img k).pix, Memory.empty⟩).pix) := by
  rw [exec_face_passed h, State.canvas, shadeAndFill_without_zen _ _ _ _ _ Memory.empty]
  exact congrArg _ (setCanvas_same_depth s k _)

namespace Unseen
variable (hF : Unseen k tex F)
include hF

theorem exec_tri (h : exec (.tri k tex false) s = .next t) : exec (.tri k tex false) (F s) = .next (F t) := by
  have hcheck := hF.fillCheck s (zen := false) (by simp)
  cases hc : s.fillCheck k tex false with
  | some x => exact (hF.exec_failed exec_tri_failed hcheck hc h).1
  | none =>
    cases (exec_tri_without_zen hc).symm.trans h
    rw [exec_tri_without_zen (hcheck.trans hc), hF.clearReport, hF.setPix, hF.targetOf, hF.triFill, hF.target]

theorem exec_face (h : exec (.face k tex false) s = .next t) : exec (.face k tex false) (F s) = .next (F t) := by
  have hcheck := hF.fillCheck s (zen := false) (by simp)
  cases hc : s.fillCheck k tex false with
  | some x => exact (hF.exec_failed exec_face_failed hcheck hc h).1
  | none =>
    cases (exec_face_without_zen hc).symm.trans h
    rw [exec_face_without_zen (hcheck.trans hc), hF.clearReport, hF.setPix, hF.targetOf, hF.argTriangle,
      hF.argTexCoords, hF.textureOf, hF.target]

/-! ## ZCLR and RENDER, which make a depth buffer of their own (R240, R270) -/

/-- ZCLR fails as it does without `F`, or replaces the depth buffer of `F s`. -/
theorem exec_zclr_cases (h : exec (.zclr k) s = .next t) :
    (exec (.zclr k) (F s) = .next (F t) ∧ t.err ≠ 0#8) ∨
      ∃ z, t = s.clearReport.setZb z ∧ exec (.zclr k) (F s) = .next ((F s.clearReport).setZb z) := by
  have hcheck := hF.withoutTexture.targetCheck s
  cases hc : s.targetCheck k none with
  | some x => exact .inl (hF.exec_failed exec_zclr_failed hcheck hc h)
  | none =>
    cases (exec_zclr_valid (targetCheck_none_tex.1 hc)).symm.trans h
    rw [exec_zclr_valid (targetCheck_none_tex.1 (hcheck.trans hc)), hF.clearReport, hF.target]
    exact .inr ⟨_, rfl, rfl⟩

/-- RENDER fails as it does without `F`, or discards the depth buffer of `F s` after the same pass. -/
theorem exec_render_cases (h : exec (.render k tex) s = .next t) :
    (exec (.render k tex) (F s) = .next (F t) ∧ t.err ≠ 0#8) ∨
      ∃ m, t = (s.clearReport.setPix k m).setZb DepthBuffer.invalid ∧
        exec (.render k tex) (F s) = .next ((F (s.clearReport.setPix k m)).setZb DepthBuffer.invalid) := by
  have hcheck := hF.targetCheck s
  cases hc : s.targetCheck k tex with
  | some x => exact .inl (hF.exec_failed exec_render_failed hcheck hc h)
  | none =>
    by_cases hok : s.mesh.ok tex.isSome
    · cases (exec_render_ok hc hok).symm.trans h
      rw [exec_render_ok (hcheck.trans hc) (by rwa [hF.mesh]), hF.clearReport, hF.setPix, hF.mesh, hF.faceFill,
        hF.target]
      exact .inr ⟨_, rfl, rfl⟩
    · cases (exec_render_refused hc hok).symm.trans h

end Unseen

/-- A command that ends well with a depth buffer of its own does not depend on the one before, which a failure
leaves. -/
theorem exec_own_depth {i : Instr} {z : DepthBuffer}
    (h : (exec i (s.setZb z) = .next (t.setZb z) ∧ t.err ≠ 0#8) ∨
      ∃ u z', t = State.setZb u z' ∧ u.err = 0#8 ∧ exec i (s.setZb z) = .next ((u.setZb z).setZb z')) :
    exec i (s.setZb z) = .next (if t.err = 0#8 then t else t.setZb z) := by
  rcases h with ⟨h, herr⟩ | ⟨u, z', rfl, herr, h⟩
  · rw [h, if_neg herr]
  · rw [h, State.setZb_err, if_pos herr]
    rfl

/-! ## Changes of an image, and the depth test -/

namespace UnseenImage
variable (hF : UnseenImage k tex F)
include hF

theorem canvas (s : State) : (F s).canvas k = s.canvas k := by
  rw [State.canvas, State.canvas, hF.target, hF.zb]

theorem setCanvas (s : State) (c : Canvas) : (F s).setCanvas k c = F (s.setCanvas k c) := by
  rw [State.setCanvas, hF.setPix, hF.zb, hF.setZb]
  rfl

theorem exec_tri {zen : Bool} (h : exec (.tri k tex zen) s = .next t) :
    exec (.tri k tex zen) (F s) = .next (F t) := by
  have hcheck := hF.fillCheck s (zen := zen) fun _ => hF.zb s
  cases hc : s.fillCheck k tex zen with
  | some x => exact (hF.exec_failed exec_tri_failed hcheck hc h).1
  | none =>
    cases (exec_tri_passed hc).symm.trans h
    rw [exec_tri_passed (hcheck.trans hc), hF.clearReport, hF.setCanvas, hF.targetOf, hF.triFill, hF.canvas]

theorem exec_face {zen : Bool} (h : exec (.face k tex zen) s = .next t) :
    exec (.face k tex zen) (F s) = .next (F t) := by
  have hcheck := hF.fillCheck s (zen := zen) fun _ => hF.zb s
  cases hc : s.fillCheck k tex zen with
  | some x => exact (hF.exec_failed exec_face_failed hcheck hc h).1
  | none =>
    cases (exec_face_passed hc).symm.trans h
    rw [exec_face_passed (hcheck.trans hc), hF.clearReport, hF.setCanvas, hF.targetOf, hF.argTriangle,
      hF.argTexCoords, hF.textureOf, hF.canvas]

theorem exec_zclr (h : exec (.zclr k) s = .next t) : exec (.zclr k) (F s) = .next (F t) := by
  rcases hF.exec_zclr_cases h with ⟨hfailed, -⟩ | ⟨z, rfl, hdone⟩
  · exact hfailed
  · rw [hdone, hF.setZb]

theorem exec_render (h : exec (.render k tex) s = .next t) : exec (.render k tex) (F s) = .next (F t) := by
  rcases hF.exec_render_cases h with ⟨hfailed, -⟩ | ⟨m, rfl, hdone⟩
  · exact hfailed
  · rw [hdone, hF.setZb]

end UnseenImage

/-- Settles O47: another depth buffer is unseen by every command without depth test, another image in a slot that
is not named by every command; ZCLR and RENDER replace the depth buffer when they end well. -/
theorem unnamedBuffersDoNotMatter : Obligations.UnnamedBuffersDoNotMatter := by
  intro k tex zen i s t h
  refine ⟨fun hi z => ?depth, fun hi z => ?ownDepth, fun hi j im hj htex => ?image⟩
  case depth =>
    have hF := unseen_setZb k tex z
    simp only [List.mem_cons, List.not_mem_nil, or_false] at hi
    rcases hi with rfl | rfl | rfl | rfl | rfl | rfl
    exacts [hF.exec_tri h, hF.exec_face h, hF.exec_line h, hF.exec_iset h, hF.exec_iget h, hF.exec_ienc h]
  case ownDepth =>
    have hF := unseen_setZb k tex z
    simp only [List.mem_cons, List.not_mem_nil, or_false] at hi
    rcases hi with rfl | rfl
    · exact exec_own_depth ((hF.exec_zclr_cases h).imp_right fun ⟨z', ht, ht'⟩ => ⟨_, z', ht, rfl, ht'⟩)
    · exact exec_own_depth ((hF.exec_render_cases h).imp_right fun ⟨m, ht, ht'⟩ => ⟨_, _, ht, rfl, ht'⟩)
  case image =>
    have hF := unseen_setImg hj htex im
    simp only [List.mem_cons, List.not_mem_nil, or_false] at hi
    rcases hi with rfl | rfl | rfl | rfl | rfl | rfl | rfl | rfl
    exacts [hF.exec_tri h, hF.exec_face h, hF.exec_render h, hF.exec_zclr h, hF.exec_line h, hF.exec_iset h,
      hF.exec_iget h, hF.exec_ienc h]

end Sys2Proof.Machine
end
